-- ==== Sys2Proof/Word.lean ====
section
/-! DEFINITION. The octet, the numbers of a path, and the four-fold container "one per path". -/

namespace Sys2Proof

/-- One octet of a frame or of a host-link record. -/
abbrev Byte := BitVec 8

/-- An Ethernet address, first octet in the most significant place (R151). -/
abbrev LinkAddr := BitVec 48

/-- The four paths of the part (00, section 0.6). -/
inductive Path where
  | p0 | p1 | p2 | p3
deriving DecidableEq, Repr

/-- One value for each of P0 to P3. -/
structure PerPath (α : Type) where
  p0 : α
  p1 : α
  p2 : α
  p3 : α
deriving DecidableEq, Repr

end Sys2Proof
end

