-- ==== Sys2Proof/Syntax.lean ====
section
/-! DEFINITION. The commands of the part: one constructor per row of spec/opcode_table.json, with the operands the
spec's text gives the record, frame, pin or timer of the row.  Numbers that stand in fields of a record or frame are
plain `Nat`s here; `WellFormed` bounds each by the width of its field (Tables 8-1 and 8-5). -/

namespace Sys2Proof

/-- The parameters of OPEN (Table 8-6, code 1). -/
structure OpenArgs where
  slot : Nat
  list : List Nat
  cap : Option Nat
  ackInterval : Option Nat
  retryLimit : Option Nat
  holdOff : Option Nat
deriving DecidableEq, Repr

/-- The parameters of ADD PEER (Table 8-6, code 11); the admission flag as its coded value. -/
structure AddPeerArgs where
  node : Nat
  links : PerPath (Option LinkAddr)
  flag : Option Nat
  list : Option (List Nat)
  cap : Option Nat
  ackInterval : Option Nat
  retryLimit : Option Nat
  holdOff : Option Nat
deriving DecidableEq, Repr

/-- The settings of SET PATH (Table 8-6, code 14); ON/OFF and quench sources as their coded values. -/
structure SetPathArgs where
  sampleInterval : Option Nat
  lineFilter : Option Nat
  alarmFilter : Option Nat
  settleTime : Option Nat
  probeInterval : Option Nat
  missLimit : Option Nat
  sources : Option (List Nat)
  companions : Option (List Nat)
  autoRevive : Option Nat
deriving DecidableEq, Repr

/-- The parameters of SET STATION (Table 8-6, code 19). -/
structure SetStationArgs where
  node : Option Nat
  frameType : Option Nat
  inquiryTimeout : Option Nat
  openTimeout : Option Nat
  parkLimit : Option Nat
deriving DecidableEq, Repr

/-- What the parser hands the HLU at a record's end (R163, Table 9-2). -/
inductive RecordEnd where
  | bad
  | request (tag : Nat) (body : List Byte)
  | send (tag : Nat) (body : List Byte)
deriving DecidableEq, Repr

/-- What a received frame carries in front of its body: the Ethernet addresses and type (R151) and the fields of the
continuity header (Table 8-1) that are not fixed by the frame's kind. An absent handle is 0xFFFF. -/
structure RxHead where
  etherDst : LinkAddr
  etherSrc : LinkAddr
  etherType : Nat
  srcNode : Nat
  dstNode : Nat
  srcHandle : Nat
  dstHandle : Nat
  shift : Nat
deriving DecidableEq, Repr

/-- The commands (spec/opcode_table.json, in its order). -/
inductive Instr where
  /-- RSTN rises. -/
  | powerOn
  /-- RSTN falls. -/
  | resetAssert
  /-- The parser completes a record or finds a bad one. -/
  | hostRecordEnd (e : RecordEnd)
  /-- A bad record ends on the link. -/
  | badRecord
  /-- A REQUEST with a code outside Table 8-6, and whatever octets follow the code. -/
  | unknownRequest (tag code : Nat) (params : List Byte)
  /-- A SEND record: handle, kind code, length field and payload octets. -/
  | send (tag handle kind length : Nat) (payload : List Byte)
  | openConv (tag : Nat) (a : OpenArgs)
  | closeGraceful (tag handle : Nat)
  | closeAbort (tag handle : Nat)
  | hold (tag handle duration : Nat)
  | release (tag handle : Nat)
  | shift (tag handle : Nat) (target : Option Nat)
  | restage (tag handle : Nat) (list : List Nat)
  | clearReturned (tag handle seq : Nat)
  | readConversation (tag handle : Nat)
  | readJournal (tag handle : Nat)
  | scan (tag start count direction : Nat) (filter : List Nat)
  | addPeer (tag : Nat) (a : AddPeerArgs)
  | removePeer (tag slot : Nat)
  | readPeer (tag slot : Nat)
  | setPath (tag path : Nat) (a : SetPathArgs)
  | quench (tag path : Nat)
  | revive (tag path : Nat)
  | drain (tag path : Nat)
  | readPath (tag path : Nat)
  | setStation (tag : Nat) (a : SetStationArgs)
  | readStation (tag : Nat)
  | setNoticeMask (tag : Nat) (reasons : List Nat)
  | restartCold (tag : Nat)
  | restartWarm (tag : Nat)
  /-- The last check octet of the REPLY in transmission leaves. -/
  | replyCompletion
  /-- The last check octet of the DELIVER in transmission leaves. -/
  | deliverCompletion
  /-- The last check octet of the NOTICE in transmission leaves. -/
  | noticeCompletion
  /-- A sample of LINE on a path; high means that the PHY reports its link up (Table 0-5). -/
  | lineSample (p : Path) (high : Bool)
  /-- A sample of ALM on a path; low means alarm active (Table 0-5, R94). -/
  | alarmSample (p : Path) (low : Bool)
  | settleExpiry (p : Path)
  /-- The last octet of the frame in transmission leaves the MAC. -/
  | frameCompletion (p : Path)
  | dataReceived (p : Path) (h : RxHead) (seq kind : Nat) (payload : List Byte)
  | ackReceived (p : Path) (h : RxHead) (delivered : Nat)
  | waitReceived (p : Path) (h : RxHead) (delivered : Nat)
  | inquiryReceived (p : Path) (h : RxHead) (void : Option Nat)
  | answerReceived (p : Path) (h : RxHead) (outcome : Nat) (void : Option Nat) (delivered : Nat)
  | openReceived (p : Path) (h : RxHead)
  | openReplyReceived (p : Path) (h : RxHead) (outcome : Nat)
  | closeReceived (p : Path) (h : RxHead) (final : Nat)
  | closeReplyReceived (p : Path) (h : RxHead) (final : Nat)
  | abandonReceived (p : Path) (h : RxHead)
  | probeReceived (p : Path) (h : RxHead)
  | echoReceived (p : Path) (h : RxHead)
  | ackTimerExpiry (handle : Nat)
  | inquiryTimerExpiry (handle : Nat)
  | waitPauseExpiry (handle : Nat)
  | openTimerExpiry (handle : Nat)
  | closeTimerExpiry (handle : Nat)
  | holdExpiry (handle : Nat)
  | parkExpiry (handle : Nat)
  | holdOffExpiry (slot : Nat)
  | slotInquiryExpiry (slot : Nat)
  | probeRound (p : Path)
  /-- An octet arrives on the inbound host link. -/
  | octetArrival (o : Byte)
  /-- A frame, given by all its octets from the destination address to the FCS, reaches a port. -/
  | frameCheckFailure (p : Path) (octets : List Byte)
  | emptyRequestBody (tag : Nat)
deriving DecidableEq, Repr

end Sys2Proof
end

