-- ==== Sys2Proof/Decode.lean ====
section
/-! DEFINITION. The decoder of command words.  spec/opcode_table.json gives none of its 62 rows any bits, so no word
spells a command. -/

namespace Sys2Proof

/-- The command that a word of `nbits` bits spells by the table's bits: no row has any, so none. -/
def decodeTableWord (_nbits _w : Nat) : Option Instr := none

end Sys2Proof
end

