-- ==== Sys2Proof/Config.lean ====
section
/-! DEFINITION. The fixed sizes and default settings of the TW4256 (00 Table 0-2 and the chapters it names).
The spec states every value that a step writes, so no free value stands here. -/

namespace Sys2Proof.Config

/-- Conversations, handles 0 to 255 (Table 0-2). -/
def conversations : Nat := 256
/-- Peer slots 0 to 31 (Table 6-1). -/
def peerSlots : Nat := 32
/-- Retention cells (Table 2-1). -/
def cells : Nat := 1024
/-- Most payload octets of a message (Table 2-1). -/
def maxPayload : Nat := 512
/-- Shift slots (Table 7-3). -/
def shiftSlots : Nat := 8
/-- Delivery queue entries (Table 3-2). -/
def deliveryEntries : Nat := 64
/-- Input buffer entries (Table 9-1). -/
def inputEntries : Nat := 8
/-- Reply queue entries (Table 9-1). -/
def replyEntries : Nat := 8
/-- Frames of transmitter class 1 per port (Table 4-4). -/
def class1Frames : Nat := 32
/-- Frames of transmitter class 2 per port (Table 4-4). -/
def class2Frames : Nat := 64
/-- The last sequence and the last shift number, 2^32 - 1 (0.7). -/
def maxSeq : Nat := 4294967295
/-- The ceiling of the fault score (R78). -/
def maxScore : Nat := 255
/-- The ceiling of the shift count (R139). -/
def maxShiftCount : Nat := 65535
/-- The ceiling of the miss count (R115). -/
def maxMiss : Nat := 15

/-- Default journal cap of a conversation (R6, R110). -/
def defaultCap : Nat := 16
/-- Default ack interval in milliseconds (R6, R110). -/
def defaultAckInterval : Nat := 100
/-- Default retry limit (R6, R110). -/
def defaultRetryLimit : Nat := 2
/-- Default hold-off in milliseconds (R6, R110). -/
def defaultHoldOff : Nat := 20

/-- The start octet of a host-link record (Table 8-4). -/
def startOctet : Byte := 0xC3#8
/-- The handle field's value for an absent handle (Table 8-1). -/
def absentHandle : Nat := 0xFFFF

end Sys2Proof.Config
end

