-- ==== Sys2Proof/Machine/Maps.lean ====
section
/-! DEFINITION. Containers of the state: sparse maps by number in one canonical form (keys strictly rising), the four
values per path, and sets held as sublists of their list of all members. -/

namespace Sys2Proof

/-- All paths in ascending order. -/
def Path.all : List Path := [.p0, .p1, .p2, .p3]

/-- The number of a path in a record or frame (0.7). -/
def Path.num : Path → Nat
  | .p0 => 0
  | .p1 => 1
  | .p2 => 2
  | .p3 => 3

/-- The path of a number 0 to 3. -/
def Path.ofNum : Nat → Option Path
  | 0 => some .p0
  | 1 => some .p1
  | 2 => some .p2
  | 3 => some .p3
  | _ => none

/-- The value for one path. -/
def PerPath.get {α : Type} (t : PerPath α) : Path → α
  | .p0 => t.p0
  | .p1 => t.p1
  | .p2 => t.p2
  | .p3 => t.p3

/-- Replace the value of one path. -/
def PerPath.set {α : Type} (t : PerPath α) (p : Path) (v : α) : PerPath α :=
  match p with
  | .p0 => { t with p0 := v }
  | .p1 => { t with p1 := v }
  | .p2 => { t with p2 := v }
  | .p3 => { t with p3 := v }

/-- The same value for every path. -/
def PerPath.all {α : Type} (v : α) : PerPath α := ⟨v, v, v, v⟩

/-- Apply a function to the value of every path. -/
def PerPath.map {α β : Type} (f : α → β) (t : PerPath α) : PerPath β := ⟨f t.p0, f t.p1, f t.p2, f t.p3⟩

/-- The four values in path order. -/
def PerPath.toList {α : Type} (t : PerPath α) : List α := [t.p0, t.p1, t.p2, t.p3]

namespace Machine

/-- A sparse map: pairs of a number and a value. -/
abbrev KMap (α : Type) := List (Nat × α)

/-- The value under a number, if any. -/
def KMap.get? {α : Type} : KMap α → Nat → Option α
  | [], _ => none
  | (j, w) :: t, k => if j = k then some w else KMap.get? t k

/-- Put a value under a number, at its place in rising order. -/
def KMap.set {α : Type} : KMap α → Nat → α → KMap α
  | [], k, v => [(k, v)]
  | (j, w) :: t, k, v =>
      if k < j then (k, v) :: (j, w) :: t
      else if k = j then (k, v) :: t
      else (j, w) :: KMap.set t k v

/-- Remove whatever stands under a number. -/
def KMap.erase {α : Type} : KMap α → Nat → KMap α
  | [], _ => []
  | (j, w) :: t, k => if j = k then KMap.erase t k else (j, w) :: KMap.erase t k

/-- The numbers that have a value, in order. -/
def KMap.keys {α : Type} (m : KMap α) : List Nat := m.map Prod.fst

/-- Apply a function to every value. -/
def KMap.mapVals {α β : Type} (f : α → β) (m : KMap α) : KMap β := m.map fun e => (e.1, f e.2)

/-- The canonical form: keys strictly rising. -/
def KMap.wf {α : Type} (m : KMap α) : Bool := decide (m.keys.Pairwise (· < ·))

/-- The lowest number below `n` that has no value. -/
def KMap.lowestFree {α : Type} (m : KMap α) (n : Nat) : Option Nat :=
  (List.range n).find? fun k => (KMap.get? m k).isNone

/-- Apply an operation for each member of a list, in order. -/
def forEach {α σ : Type} (l : List α) (f : α → σ → σ) (s : σ) : σ := l.foldl (fun t a => f a t) s

/-- A set as the sublist of `all` that holds `x` and the members of `set`: canonical whatever the order of joining. -/
def insertIn {α : Type} [DecidableEq α] (all : List α) (x : α) (set : List α) : List α :=
  all.filter fun y => decide (y = x) || set.contains y

/-- The union of two sets as a sublist of `all`. -/
def unionIn {α : Type} [DecidableEq α] (all a b : List α) : List α :=
  all.filter fun y => a.contains y || b.contains y

end Machine

end Sys2Proof
end

