-- ==== Sys2Proof/Machine/State.lean ====
section
/-! DEFINITION. The state of the part, block by block (00 Table 0-1), as plain data, and its values after reset. -/

namespace Sys2Proof.Machine

/-! ## Faults and refusals -/

/-- Nothing in the spec stops the part: no step raises a fault (safe: there is none to rely on). -/
inductive Fault where
deriving DecidableEq, Repr

/-- Refusals of the model. -/
inductive Refusal where
  /-- Raised by an arm of `exec` whose command has no meaning yet; no arm is left so. Safe: the model stops. -/
  | notModelled (mnemonic : String)
deriving DecidableEq, Repr

/-! ## Conversations and journals (01, 02) -/

/-- States of an in-use record (Table 1-2); VACANT is the absence of a record. -/
inductive ConvState where
  | opening | carrying | shiftQueued | shifting | withheld | parked | lapsed
deriving DecidableEq, Repr

/-- Which side began the conversation (Table 1-1). -/
inductive Role where
  | opener | acceptor
deriving DecidableEq, Repr

/-- Close stages (Table 1-3); `opened` is OPEN. -/
inductive CloseStage where
  | opened | draining | closeSent | closedOut
deriving DecidableEq, Repr

/-- Lapse reasons (Table 1-4). -/
inductive LapseReason where
  | openFailed | openRefused | notKnown | abandoned | parkExpired | restartInOpening
deriving DecidableEq, Repr

/-- Kinds of a message (Table 2-2). -/
inductive RecKind where
  | ordinary | singleShot
deriving DecidableEq, Repr

/-- Journal record statuses (Table 2-3). -/
inductive JStatus where
  | waiting | sent | returned | unsure
deriving DecidableEq, Repr

/-- A journal record (Table 2-2). -/
structure JRec where
  seq : Nat
  kind : RecKind
  length : Nat
  cell : Nat
  status : JStatus
  sentShift : Option Nat
deriving DecidableEq, Repr

/-- The ack timer with its mode (Table 2-4), its expiry station time, and in an INQUIRY mode the void sequence of the
same-path inquiry (R42). -/
inductive AckTimer where
  | stopped
  | ackWait (expiry : Nat)
  | inquiry (attempt void expiry : Nat)
deriving DecidableEq, Repr

/-- An in-use conversation record (Table 1-1). `nextSeq = none` is EXHAUSTED; the hold timer ends at `hold`. -/
structure Conv where
  state : ConvState
  peer : Nat
  peerHandle : Option Nat
  role : Role
  prefs : List Path
  staged : Option (List Path)
  active : Option Path
  forced : Option Path
  openAttempt : Option (Path × Nat)
  cap : Nat
  ackInterval : Nat
  retryLimit : Nat
  holdOff : Nat
  nextSeq : Option Nat
  settled : Nat
  sendShift : Nat
  retryCount : Nat
  received : Nat
  delivered : Nat
  inShift : Nat
  ackPath : Option Path
  closeStage : CloseStage
  farClosed : Bool
  hold : Option Nat
  holdExpired : Bool
  lapseReason : Option LapseReason
  parkStart : Option Nat
  shiftCount : Nat
  journal : List JRec
  ackTimer : AckTimer
  waitPause : Option Nat
  openTimer : Option Nat
  closeTimer : Option Nat
deriving DecidableEq, Repr

/-- The Retention Store (Table 2-1): the payloads of the cells that journal records hold, and the free list, head
first. The free count is the length of the free list. -/
structure Rts where
  cells : KMap (List Byte)
  free : List Nat
deriving DecidableEq, Repr

/-! ## Delivery queue (03) -/

/-- A delivery queue entry (Table 3-3). -/
structure DlqEntry where
  handle : Nat
  seq : Nat
  kind : RecKind
  length : Nat
  payload : List Byte
deriving DecidableEq, Repr

/-- In transmission of Table 3-2. -/
inductive DlqTx where
  | none | head | orphaned
deriving DecidableEq, Repr

/-- The delivery queue (Table 3-2), head first. The entry count is the length of the entries. -/
structure Dlq where
  entries : List DlqEntry
  tx : DlqTx
deriving DecidableEq, Repr

/-! ## Frames (08) -/

/-- Outcomes of an ANSWER (Table 8-3). -/
inductive AnswerOutcome where
  | ordinary | inDelivery | voided | notKnown
deriving DecidableEq, Repr

/-- The kinds of a continuity frame with their bodies (Tables 8-2 and 8-3). -/
inductive FrameBody where
  | data (seq : Nat) (kind : RecKind) (payload : List Byte)
  | ack (delivered : Nat)
  | wait (delivered : Nat)
  | inquiry (void : Option Nat)
  | answer (outcome : AnswerOutcome) (void : Option Nat) (delivered : Nat)
  | openFrame
  | openReply (accepted : Bool)
  | close (final : Nat)
  | closeReply (final : Nat)
  | abandon
  | probe
  | echo
deriving DecidableEq, Repr

/-- A frame queued and not begun. Its destination was read when it was queued (R109); what R182 and R63 read at the
beginning is not in it. `owner` is the conversation whose frame it is for R1, R21 and R123; answers have none (R66). -/
structure QFrame where
  dstNode : Nat
  dstAddr : LinkAddr
  srcHandle : Option Nat
  dstHandle : Option Nat
  shift : Nat
  body : FrameBody
  owner : Option Nat
deriving DecidableEq, Repr

/-- A frame begun: all its fields on the wire but padding and FCS (R151, R152). -/
structure TxFrame where
  etherDst : LinkAddr
  etherSrc : LinkAddr
  etherType : Nat
  srcNode : Nat
  dstNode : Nat
  srcHandle : Option Nat
  dstHandle : Option Nat
  shift : Nat
  body : FrameBody
deriving DecidableEq, Repr

/-! ## Paths (04, 05) -/

/-- Path states (Table 4-1). -/
inductive PathState where
  | down | proving | sound | suspect | quenched | drained
deriving DecidableEq, Repr

/-- Recorded causes (Table 5-1). -/
inductive Cause where
  | manual | score | plane | companion | peerAll
deriving DecidableEq, Repr

/-- Quench sources (Table 5-2). -/
inductive QuenchSource where
  | score | plane | companion | peerAll
deriving DecidableEq, Repr

/-- A path record (Table 4-1 with Table 5-1). `lineUp` is line state UP, `alarm` is alarm state ACTIVE.
`lineSampled` and `alarmSampled` are the instants of the last samples, or of the start of the qualifier.
`flush` says that a restart has taken effect while `tx` was leaving (R88, R186). -/
structure PathRec where
  state : PathState
  score : Nat
  lineUp : Bool
  lineTime : Nat
  lineRun : Nat
  lineRunTime : Option Nat
  lineSampled : Nat
  alarm : Bool
  alarmTime : Nat
  alarmRun : Nat
  alarmRunTime : Option Nat
  alarmSampled : Nat
  settleTimer : Option Nat
  cause : Option Cause
  sampleInterval : Nat
  lineFilter : Bool
  alarmFilter : Bool
  settleTime : Nat
  probeInterval : Nat
  missLimit : Nat
  sources : List QuenchSource
  companions : List Path
  autoRevive : Bool
  class1 : List QFrame
  class2 : List QFrame
  class3 : List QFrame
  class4 : List QFrame
  tx : Option TxFrame
  flush : Bool
  rotation : Nat
deriving DecidableEq, Repr

/-! ## Peers (06) -/

/-- Reachability (Table 6-1). -/
inductive Reach where
  | unknown | reachable | unreachable
deriving DecidableEq, Repr

/-- The per-path fields of a peer entry (Table 6-1). -/
structure PeerLink where
  link : Option LinkAddr
  reach : Reach
  miss : Nat
  heard : Bool
  lastHeard : Option Nat
deriving DecidableEq, Repr

/-- A present peer entry (Table 6-1). -/
structure Peer where
  node : Nat
  links : PerPath PeerLink
  admission : Bool
  admitList : Option (List Path)
  cap : Nat
  ackInterval : Nat
  retryLimit : Nat
  holdOff : Nat
deriving DecidableEq, Repr

/-- The peer table: present entries by slot, and the round timer of each path (R113). -/
structure Prt where
  peers : KMap Peer
  rounds : PerPath (Option Nat)
deriving DecidableEq, Repr

/-! ## Shift engine (07) -/

/-- Classes of a shift queue entry (Table 7-2). -/
inductive ShiftClass where
  | commitFirst | ordinary
deriving DecidableEq, Repr

/-- A shift queue entry (Table 7-2). -/
structure QueueEntry where
  handle : Nat
  cls : ShiftClass
deriving DecidableEq, Repr

/-- Phases of a shift slot (Table 7-3). -/
inductive Phase where
  | holdOff | inquiring
deriving DecidableEq, Repr

/-- A shift slot in use (Table 7-3). -/
structure Slot where
  handle : Nat
  phase : Phase
  newShift : Nat
  candidate : Option Path
  tried : List Path
  attempt : Option Nat
  void : Option Nat
  timer : Option Nat
deriving DecidableEq, Repr

/-- The shift engine: the shift queue, head first, and the slots in use by number. -/
structure She where
  queue : List QueueEntry
  slots : KMap Slot
deriving DecidableEq, Repr

/-! ## Notices (10) -/

/-- The reasons of a notice (Table 8-7). -/
inductive Reason where
  | opened | openedByPeer | settled | shiftBegun | shifted | parked | withheld | holdExpired | returned | lapsed
  | farClosed | closed | stagedApplied | state | falseRevival | line | alarm | reachability | started
deriving DecidableEq, Repr

/-- How the part last started (Table 10-1). -/
inductive StartKind where
  | powerOn | cold | warm
deriving DecidableEq, Repr

/-- The conversation snapshot (R161, R178); `state = none` is VACANT. -/
structure ConvSnapshot where
  state : Option ConvState
  active : Option Path
  settled : Nat
  nextSeq : Option Nat
  delivered : Nat
  shiftCount : Nat
  returnedCount : Nat
  lowestReturned : Option Nat
  lapseReason : Option LapseReason
deriving DecidableEq, Repr

/-- A closing record (Table 10-1, R175). -/
structure Closing where
  reasons : List Reason
  snapshot : ConvSnapshot
deriving DecidableEq, Repr

/-- The objects of a notice with their snapshots (R161). -/
inductive NoticeObject where
  | station (start : StartKind) (nodeId frameType time : Nat)
  | path (p : Path) (state : PathState) (score : Nat) (cause : Option Cause) (lineUp : Bool) (lineTime : Nat)
      (alarm : Bool) (alarmTime : Nat)
  | peer (slot node : Nat) (reach : PerPath Reach)
  | conversation (handle : Nat) (snapshot : ConvSnapshot)
deriving DecidableEq, Repr

/-- A notice as built (R161, R178). -/
structure Notice where
  object : NoticeObject
  reasons : List Reason
deriving DecidableEq, Repr

/-- The notice unit (Table 10-1). Empty sets are not listed in the maps. -/
structure Ntu where
  station : List Reason
  startKind : StartKind
  paths : PerPath (List Reason)
  peers : KMap (List Reason)
  convs : KMap (List Reason)
  closing : KMap Closing
  mask : List Reason
  rotation : Nat
deriving DecidableEq, Repr

/-! ## Host link (09) -/

/-- Result codes (Table 8-7). -/
inductive Result where
  | done | accepted | busy | wrongState | badHandle | badValue | badList | noRoom | noPeer | noPath | limit | full
  | exhausted | notHeld | expired | inUse | causePresent | noStation | unknownRequest | badRecord
deriving DecidableEq, Repr

/-- A reply as built (R159, R166): tag, echoed code, result code, and the octets of its results. -/
structure Reply where
  tag : Nat
  code : Nat
  result : Result
  results : List Byte
deriving DecidableEq, Repr

/-- A record begun on the outbound link (Table 9-1). -/
inductive OutRecord where
  | reply (r : Reply)
  | deliver (e : DlqEntry)
  | notice (n : Notice)
deriving DecidableEq, Repr

/-- Kinds of a contested turn (Table 9-1, R169). -/
inductive SharedTurn where
  | deliver | notice
deriving DecidableEq, Repr

/-- Kinds of a restart (R185). -/
inductive RestartKind where
  | cold | warm
deriving DecidableEq, Repr

/-- The parser with the octets it has kept (R156): in LENGTH the first length octet if taken, in CONTENT the two length
octets' value and every octet kept since, in order. -/
inductive Parser where
  | hunting
  | length (first : Option Byte)
  | content (len : Nat) (kept : List Byte)
deriving DecidableEq, Repr

/-- The host link unit (Table 9-1). The accept line is computed from it (`State.acceptHigh`). -/
structure Hlu where
  input : List RecordEnd
  replies : List Reply
  out : Option OutRecord
  lastShared : SharedTurn
  restart : Option RestartKind
  parser : Parser
deriving DecidableEq, Repr

/-! ## Station control (11) -/

/-- Station fields and station time in microseconds (Table 11-1). -/
structure Stc where
  nodeId : Nat
  frameType : Nat
  inquiryTimeout : Nat
  openTimeout : Nat
  parkLimit : Nat
  time : Nat
deriving DecidableEq, Repr

/-! ## The whole part -/

/-- The state of the part. `pending` is the model's own queue of commands, first in, first out; `inReset` says that
RSTN is low. -/
structure State where
  pending : List Instr
  inReset : Bool
  stc : Stc
  convs : KMap Conv
  rts : Rts
  dlq : Dlq
  paths : PerPath PathRec
  prt : Prt
  she : She
  hlu : Hlu
  ntu : Ntu
deriving DecidableEq, Repr

/-- A path record at a start, with the station time of the start (Tables 4-1 and 5-1, R92, R108). -/
def PathRec.atStart (t : Nat) : PathRec where
  state := .down
  score := 0
  lineUp := false
  lineTime := t
  lineRun := 0
  lineRunTime := none
  lineSampled := t
  alarm := false
  alarmTime := t
  alarmRun := 0
  alarmRunTime := none
  alarmSampled := t
  settleTimer := none
  cause := none
  sampleInterval := 1000
  lineFilter := true
  alarmFilter := true
  settleTime := 2000
  probeInterval := 100
  missLimit := 3
  sources := [.score, .peerAll]
  companions := []
  autoRevive := false
  class1 := []
  class2 := []
  class3 := []
  class4 := []
  tx := none
  flush := false
  rotation := 255

/-- The reasons of Table 8-7 in code order. -/
def Reason.all : List Reason :=
  [.opened, .openedByPeer, .settled, .shiftBegun, .shifted, .parked, .withheld, .holdExpired, .returned, .lapsed,
   .farClosed, .closed, .stagedApplied, .state, .falseRevival, .line, .alarm, .reachability, .started]

/-- The default notice mask: all but SETTLED (Table 10-1). -/
def Reason.defaultMask : List Reason := Reason.all.filter fun r => decide (r ≠ .settled)

/-- The station fields at power-on and after a cold restart (Table 11-1), with the station time given. -/
def Stc.atStart (t : Nat) : Stc where
  nodeId := 0
  frameType := 0
  inquiryTimeout := 40
  openTimeout := 200
  parkLimit := 0
  time := t

/-- The Retention Store with every cell free, in ascending order (R52). -/
def Rts.atStart : Rts where
  cells := []
  free := List.range Config.cells

/-- The host link unit after any start (Table 9-1). -/
def Hlu.atStart : Hlu where
  input := []
  replies := []
  out := none
  lastShared := .deliver
  restart := none
  parser := .hunting

/-- The notice unit after a start of a kind, with the mask it then has (Table 10-1, R179). -/
def Ntu.atStart (k : StartKind) (mask : List Reason) : Ntu where
  station := [.started]
  startKind := k
  paths := PerPath.all []
  peers := []
  convs := []
  closing := []
  mask := mask
  rotation := 255

/-- The part right after reset: RSTN has risen and every block has its power-on values (R184). -/
def State.reset : State where
  pending := []
  inReset := false
  stc := Stc.atStart 0
  convs := []
  rts := Rts.atStart
  dlq := { entries := [], tx := .none }
  paths := PerPath.all (PathRec.atStart 0)
  prt := { peers := [], rounds := PerPath.all none }
  she := { queue := [], slots := [] }
  hlu := Hlu.atStart
  ntu := Ntu.atStart .powerOn Reason.defaultMask

end Sys2Proof.Machine
end

