-- ==== Sys2Proof/Machine/Flags.lean ====
section
/-! DEFINITION. The pending reason sets of the notice unit: raising a reason, freezing a closing record, readiness, and
building a notice (10). -/

namespace Sys2Proof.Machine

/-- The station time now. -/
def State.now (s : State) : Nat := s.stc.time

/-- The in-use record of a handle; `none` is VACANT. -/
def State.conv (s : State) (h : Nat) : Option Conv := KMap.get? s.convs h

/-- The record of a path. -/
def State.path (s : State) (p : Path) : PathRec := s.paths.get p

/-- The present entry of a peer slot. -/
def State.peer (s : State) (k : Nat) : Option Peer := KMap.get? s.prt.peers k

/-- The reasons pending under a number of a map of sets. -/
def reasonsAt (m : KMap (List Reason)) (k : Nat) : List Reason := (KMap.get? m k).getD []

/-- A reason joins the set of a conversation handle (R174). -/
def raiseConv (h : Nat) (r : Reason) (s : State) : State :=
  { s with ntu := { s.ntu with convs := KMap.set s.ntu.convs h (insertIn Reason.all r (reasonsAt s.ntu.convs h)) } }

/-- A reason joins the set of a path (R174). -/
def raisePath (p : Path) (r : Reason) (s : State) : State :=
  { s with ntu := { s.ntu with paths := s.ntu.paths.set p (insertIn Reason.all r (s.ntu.paths.get p)) } }

/-- A reason joins the set of a peer slot (R174). -/
def raisePeer (k : Nat) (r : Reason) (s : State) : State :=
  { s with ntu := { s.ntu with peers := KMap.set s.ntu.peers k (insertIn Reason.all r (reasonsAt s.ntu.peers k)) } }

/-- The set of a peer slot is emptied without a notice (R111). -/
def clearPeerReasons (k : Nat) (s : State) : State :=
  { s with ntu := { s.ntu with peers := KMap.erase s.ntu.peers k } }

/-- The RETURNED records of a journal. -/
def returnedRecs (j : List JRec) : List JRec := j.filter fun r => decide (r.status = .returned)

/-- The snapshot of a conversation record, with the state to show (R178). -/
def Conv.snapshotAs (c : Conv) (st : Option ConvState) : ConvSnapshot where
  state := st
  active := c.active
  settled := c.settled
  nextSeq := c.nextSeq
  delivered := c.delivered
  shiftCount := c.shiftCount
  returnedCount := (returnedRecs c.journal).length
  lowestReturned := ((returnedRecs c.journal).head?).map JRec.seq
  lapseReason := c.lapseReason

/-- The snapshot of a handle that holds nothing: a live set stands only under a record in use (R1, R174), so no notice
carries it. -/
def ConvSnapshot.vacant : ConvSnapshot where
  state := none
  active := none
  settled := 0
  nextSeq := some 0
  delivered := 0
  shiftCount := 0
  returnedCount := 0
  lowestReturned := none
  lapseReason := none

/-- The handle's set with CLOSED moves into its closing record, with the values the record held (R175). A closing
record already present is merged. -/
def freezeClosing (h : Nat) (c : Conv) (s : State) : State :=
  let set := insertIn Reason.all .closed (reasonsAt s.ntu.convs h)
  let merged :=
    match KMap.get? s.ntu.closing h with
    | none => set
    | some old => unionIn Reason.all old.reasons set
  { s with ntu :=
      { s.ntu with
        convs := KMap.erase s.ntu.convs h
        closing := KMap.set s.ntu.closing h { reasons := merged, snapshot := c.snapshotAs none } } }

/-- A set holds a reason that the mask enables (R176). -/
def Ntu.enabled (n : Ntu) (set : List Reason) : Bool := set.any fun r => n.mask.contains r

/-- The closing record of a handle is ready (R176). -/
def Ntu.closingReady (n : Ntu) (h : Nat) : Bool :=
  match KMap.get? n.closing h with
  | none => false
  | some c => n.enabled c.reasons

/-- The live set of a handle is ready (R176). -/
def Ntu.convReady (n : Ntu) (h : Nat) : Bool := n.enabled (reasonsAt n.convs h)

/-- The objects of R177; a handle's closing record apart from its live set. -/
inductive NoticeTurn where
  | station
  | path (p : Path)
  | peer (k : Nat)
  | closing (h : Nat)
  | conv (h : Nat)
deriving DecidableEq, Repr

/-- Keys above a point first, then the others: ascending order from the number after the point, wrapping (R87, R177). -/
def rotated (point : Nat) (keys : List Nat) : List Nat :=
  keys.filter (fun k => decide (point < k)) ++ keys.filter (fun k => decide (k ≤ point))

/-- The handles that may have something pending, in ascending order. -/
def Ntu.handles (n : Ntu) : List Nat :=
  (List.range Config.conversations).filter fun h =>
    (KMap.get? n.convs h).isSome || (KMap.get? n.closing h).isSome

/-- The first ready object in the order of R177. -/
def Ntu.firstReady (n : Ntu) : Option NoticeTurn :=
  if n.enabled n.station then some .station
  else
    match Path.all.find? (fun p => n.enabled (n.paths.get p)) with
    | some p => some (.path p)
    | none =>
      match (List.range Config.peerSlots).find? (fun k => n.enabled (reasonsAt n.peers k)) with
      | some k => some (.peer k)
      | none =>
        match (rotated n.rotation n.handles).find? (fun h => n.closingReady h || n.convReady h) with
        | none => none
        | some h => if n.closingReady h then some (.closing h) else some (.conv h)

/-- The notice of a turn as built, with its set emptied (R178) and the rotation point moved (R177). -/
def buildNotice (t : NoticeTurn) (s : State) : Notice × State :=
  match t with
  | .station =>
      ({ object := .station s.ntu.startKind s.stc.nodeId s.stc.frameType s.now, reasons := s.ntu.station },
       { s with ntu := { s.ntu with station := [] } })
  | .path p =>
      let r := s.path p
      ({ object := .path p r.state r.score r.cause r.lineUp r.lineTime r.alarm r.alarmTime,
         reasons := s.ntu.paths.get p },
       { s with ntu := { s.ntu with paths := s.ntu.paths.set p [] } })
  | .peer k =>
      let node := ((s.peer k).map Peer.node).getD 0
      let reach :=
        match s.peer k with
        | none => PerPath.all Reach.unknown
        | some e => e.links.map PeerLink.reach
      ({ object := .peer k node reach, reasons := reasonsAt s.ntu.peers k },
       { s with ntu := { s.ntu with peers := KMap.erase s.ntu.peers k } })
  | .closing h =>
      let c := (KMap.get? s.ntu.closing h).getD { reasons := [], snapshot := ConvSnapshot.vacant }
      ({ object := .conversation h c.snapshot, reasons := c.reasons },
       { s with ntu := { s.ntu with closing := KMap.erase s.ntu.closing h, rotation := h } })
  | .conv h =>
      let snap := ((s.conv h).map fun c => c.snapshotAs (some c.state)).getD ConvSnapshot.vacant
      ({ object := .conversation h snap, reasons := reasonsAt s.ntu.convs h },
       { s with ntu := { s.ntu with convs := KMap.erase s.ntu.convs h, rotation := h } })

end Sys2Proof.Machine
end

