-- ==== Sys2Proof/Machine/Codec.lean ====
section
/-! DEFINITION. Octet encodings: values and composites (R157, Table 8-5), the codes of named values (Tables 8-2 to 8-7),
and the request bodies of Table 8-6 with their decoding (R158). -/

namespace Sys2Proof.Machine

/-! ## Numbers and composites (R157) -/

/-- A number in `n` octets, most significant first (8). -/
def octetsOf : Nat → Nat → List Byte
  | 0, _ => []
  | n + 1, v => BitVec.ofNat 8 (v / 256 ^ n) :: octetsOf n v

/-- The number that octets spell, most significant first (8). -/
def numberOf (l : List Byte) : Nat := l.foldl (fun a o => a * 256 + o.toNat) 0

/-- Yes and ON are 1, no and OFF are 0 (Table 8-5). -/
def octetsOfBool (b : Bool) : List Byte := [if b then 1#8 else 0#8]

/-- An optional field: a marker octet, and the value when present (R157). -/
def octetsOfOpt {α : Type} (f : α → List Byte) : Option α → List Byte
  | none => [0#8]
  | some v => 1#8 :: f v

/-- A list or set of one-octet members behind one count octet (R157). -/
def octetsOfList (l : List Nat) : List Byte := octetsOf 1 l.length ++ l.flatMap (octetsOf 1)

/-- An optional number in `n` octets. -/
def octetsOfOptNum (n : Nat) (v : Option Nat) : List Byte := octetsOfOpt (octetsOf n) v

/-- A list of paths. -/
def octetsOfPaths (l : List Path) : List Byte := octetsOfList (l.map Path.num)

/-- A path number in one octet. -/
def octetsOfPath (p : Path) : List Byte := octetsOf 1 p.num

/-! ## Codes of named values (Tables 8-3, 8-5, 8-7) -/

/-- States in the order of Table 1-2; VACANT is `none`. -/
def codeOfState : Option ConvState → Nat
  | none => 1
  | some .opening => 2
  | some .carrying => 3
  | some .shiftQueued => 4
  | some .shifting => 5
  | some .withheld => 6
  | some .parked => 7
  | some .lapsed => 8

/-- Roles in the order of Table 1-1. -/
def codeOfRole : Role → Nat
  | .opener => 1
  | .acceptor => 2

/-- Close stages in the order of Table 1-1. -/
def codeOfClose : CloseStage → Nat
  | .opened => 1
  | .draining => 2
  | .closeSent => 3
  | .closedOut => 4

/-- Lapse reasons in the order of Table 1-4. -/
def codeOfLapse : LapseReason → Nat
  | .openFailed => 1
  | .openRefused => 2
  | .notKnown => 3
  | .abandoned => 4
  | .parkExpired => 5
  | .restartInOpening => 6

/-- ORDINARY 1, SINGLE-SHOT 2 (Table 8-3). -/
def codeOfKind : RecKind → Nat
  | .ordinary => 1
  | .singleShot => 2

/-- The record kind of a code. -/
def kindOfCode : Nat → Option RecKind
  | 1 => some .ordinary
  | 2 => some .singleShot
  | _ => none

/-- Journal statuses in the order of Table 2-2. -/
def codeOfStatus : JStatus → Nat
  | .waiting => 1
  | .sent => 2
  | .returned => 3
  | .unsure => 4

/-- STOPPED 1, ACK-WAIT 2, INQUIRY attempts 1 to 3 as 3 to 5 (R159). -/
def codeOfAckTimer : AckTimer → Nat
  | .stopped => 1
  | .ackWait _ => 2
  | .inquiry a _ _ => 2 + a

/-- Path states in the order of Table 4-1. -/
def codeOfPathState : PathState → Nat
  | .down => 1
  | .proving => 2
  | .sound => 3
  | .suspect => 4
  | .quenched => 5
  | .drained => 6

/-- Causes: MANUAL 1 to PEER-ALL 5 (R161). -/
def codeOfCause : Cause → Nat
  | .manual => 1
  | .score => 2
  | .plane => 3
  | .companion => 4
  | .peerAll => 5

/-- Quench sources: SCORE 1 to PEER-ALL 4 (8.8). -/
def codeOfSource : QuenchSource → Nat
  | .score => 1
  | .plane => 2
  | .companion => 3
  | .peerAll => 4

/-- The quench source of a code. -/
def sourceOfCode : Nat → Option QuenchSource
  | 1 => some .score
  | 2 => some .plane
  | 3 => some .companion
  | 4 => some .peerAll
  | _ => none

/-- Reachability in the order of Table 6-1. -/
def codeOfReach : Reach → Nat
  | .unknown => 1
  | .reachable => 2
  | .unreachable => 3

/-- Start kinds: POWER-ON 1, COLD 2, WARM 3 (R161). -/
def codeOfStart : StartKind → Nat
  | .powerOn => 1
  | .cold => 2
  | .warm => 3

/-- Answer outcomes: ORDINARY 1, IN-DELIVERY 2, VOIDED 3, NOT-KNOWN 4 (Table 8-3). -/
def codeOfOutcome : AnswerOutcome → Nat
  | .ordinary => 1
  | .inDelivery => 2
  | .voided => 3
  | .notKnown => 4

/-- The answer outcome of a code. -/
def outcomeOfCode : Nat → Option AnswerOutcome
  | 1 => some .ordinary
  | 2 => some .inDelivery
  | 3 => some .voided
  | 4 => some .notKnown
  | _ => none

/-- Reasons (Table 8-7). -/
def codeOfReason : Reason → Nat
  | .opened => 1
  | .openedByPeer => 2
  | .settled => 3
  | .shiftBegun => 4
  | .shifted => 5
  | .parked => 6
  | .withheld => 7
  | .holdExpired => 8
  | .returned => 9
  | .lapsed => 10
  | .farClosed => 11
  | .closed => 12
  | .stagedApplied => 13
  | .state => 14
  | .falseRevival => 15
  | .line => 16
  | .alarm => 17
  | .reachability => 18
  | .started => 19

/-- Results (Table 8-7). -/
def codeOfResult : Result → Nat
  | .done => 1
  | .accepted => 2
  | .busy => 3
  | .wrongState => 4
  | .badHandle => 5
  | .badValue => 6
  | .badList => 7
  | .noRoom => 8
  | .noPeer => 9
  | .noPath => 10
  | .limit => 11
  | .full => 12
  | .exhausted => 13
  | .notHeld => 14
  | .expired => 15
  | .inUse => 16
  | .causePresent => 17
  | .noStation => 18
  | .unknownRequest => 19
  | .badRecord => 20

/-- Next sequence; EXHAUSTED is 0 (Table 8-5). -/
def octetsOfNextSeq (n : Option Nat) : List Byte := octetsOf 4 (n.getD 0)

/-- A set of reasons in ascending code order (R161). -/
def octetsOfReasons (l : List Reason) : List Byte :=
  octetsOfList ((Reason.all.filter fun r => l.contains r).map codeOfReason)

/-! ## Requests (8.8) -/

/-- A decoded request (Table 8-6); CLOSE and RESTART carry their mode and kind as coded values. -/
inductive Request where
  | openConv (a : OpenArgs)
  | close (handle mode : Nat)
  | hold (handle duration : Nat)
  | release (handle : Nat)
  | shift (handle : Nat) (target : Option Nat)
  | restage (handle : Nat) (list : List Nat)
  | clearReturned (handle seq : Nat)
  | readConversation (handle : Nat)
  | readJournal (handle : Nat)
  | scan (start count direction : Nat) (filter : List Nat)
  | addPeer (a : AddPeerArgs)
  | removePeer (slot : Nat)
  | readPeer (slot : Nat)
  | setPath (path : Nat) (a : SetPathArgs)
  | quench (path : Nat)
  | revive (path : Nat)
  | drain (path : Nat)
  | readPath (path : Nat)
  | setStation (a : SetStationArgs)
  | readStation
  | setNoticeMask (reasons : List Nat)
  | restart (kind : Nat)
deriving DecidableEq, Repr

/-- Request codes (Table 8-6). -/
def Request.code : Request → Nat
  | .openConv _ => 1
  | .close _ _ => 2
  | .hold _ _ => 3
  | .release _ => 4
  | .shift _ _ => 5
  | .restage _ _ => 6
  | .clearReturned _ _ => 7
  | .readConversation _ => 8
  | .readJournal _ => 9
  | .scan _ _ _ _ => 10
  | .addPeer _ => 11
  | .removePeer _ => 12
  | .readPeer _ => 13
  | .setPath _ _ => 14
  | .quench _ => 15
  | .revive _ => 16
  | .drain _ => 17
  | .readPath _ => 18
  | .setStation _ => 19
  | .readStation => 20
  | .setNoticeMask _ => 21
  | .restart _ => 22

/-- The parameters of a request in the order of Table 8-6. -/
def Request.params : Request → List Byte
  | .openConv a =>
      octetsOf 1 a.slot ++ octetsOfList a.list ++ octetsOfOptNum 1 a.cap ++ octetsOfOptNum 2 a.ackInterval ++
        octetsOfOptNum 1 a.retryLimit ++ octetsOfOptNum 2 a.holdOff
  | .close h m => octetsOf 2 h ++ octetsOf 1 m
  | .hold h d => octetsOf 2 h ++ octetsOf 2 d
  | .release h => octetsOf 2 h
  | .shift h t => octetsOf 2 h ++ octetsOfOptNum 1 t
  | .restage h l => octetsOf 2 h ++ octetsOfList l
  | .clearReturned h q => octetsOf 2 h ++ octetsOf 4 q
  | .readConversation h => octetsOf 2 h
  | .readJournal h => octetsOf 2 h
  | .scan st n d f => octetsOf 2 st ++ octetsOf 1 n ++ octetsOf 1 d ++ octetsOfList f
  | .addPeer a =>
      octetsOf 2 a.node ++ a.links.toList.flatMap (octetsOfOpt fun x => octetsOf 6 x.toNat) ++
        octetsOfOptNum 1 a.flag ++ octetsOfOpt octetsOfList a.list ++ octetsOfOptNum 1 a.cap ++
        octetsOfOptNum 2 a.ackInterval ++ octetsOfOptNum 1 a.retryLimit ++ octetsOfOptNum 2 a.holdOff
  | .removePeer k => octetsOf 1 k
  | .readPeer k => octetsOf 1 k
  | .setPath p a =>
      octetsOf 1 p ++ octetsOfOptNum 2 a.sampleInterval ++ octetsOfOptNum 1 a.lineFilter ++
        octetsOfOptNum 1 a.alarmFilter ++ octetsOfOptNum 2 a.settleTime ++ octetsOfOptNum 2 a.probeInterval ++
        octetsOfOptNum 1 a.missLimit ++ octetsOfOpt octetsOfList a.sources ++ octetsOfOpt octetsOfList a.companions ++
        octetsOfOptNum 1 a.autoRevive
  | .quench p => octetsOf 1 p
  | .revive p => octetsOf 1 p
  | .drain p => octetsOf 1 p
  | .readPath p => octetsOf 1 p
  | .setStation a =>
      octetsOfOptNum 2 a.node ++ octetsOfOptNum 2 a.frameType ++ octetsOfOptNum 2 a.inquiryTimeout ++
        octetsOfOptNum 2 a.openTimeout ++ octetsOfOptNum 2 a.parkLimit
  | .readStation => []
  | .setNoticeMask r => octetsOfList r
  | .restart k => octetsOf 1 k

/-- The body of a REQUEST record: the code, then the parameters (8.8). -/
def Request.body (r : Request) : List Byte := octetsOf 1 r.code ++ r.params

/-- The body of a SEND record (8.8). -/
def sendBody (handle kind length : Nat) (payload : List Byte) : List Byte :=
  octetsOf 2 handle ++ octetsOf 1 kind ++ octetsOf 2 length ++ payload

/-! ## Decoding (R158): each taker answers the value and the octets left, or nothing where the decoding fails -/

/-- A number of `n` octets. -/
def takeNum (n : Nat) (l : List Byte) : Option (Nat × List Byte) :=
  if l.length < n then none else some (numberOf (l.take n), l.drop n)

/-- An optional value: the marker octet is 0 or 1. -/
def takeOpt {α : Type} (f : List Byte → Option (α × List Byte)) : List Byte → Option (Option α × List Byte)
  | [] => none
  | m :: l =>
      if m = 0#8 then some (none, l)
      else if m = 1#8 then
        match f l with
        | none => none
        | some (v, l') => some (some v, l')
      else none

/-- A list: the count octet, then that many octets. -/
def takeList : List Byte → Option (List Nat × List Byte)
  | [] => none
  | n :: l =>
      if l.length < n.toNat then none
      else some ((l.take n.toNat).map BitVec.toNat, l.drop n.toNat)

/-- A set: a list that names no member twice. -/
def takeSet (l : List Byte) : Option (List Nat × List Byte) :=
  match takeList l with
  | none => none
  | some (v, l') => if v.Nodup then some (v, l') else none

/-- A link address of six octets. -/
def takeLink (l : List Byte) : Option (LinkAddr × List Byte) :=
  match takeNum 6 l with
  | none => none
  | some (v, l') => some (BitVec.ofNat 48 v, l')

/-- No octets may be left over after the last parameter. -/
def noneLeft {α : Type} (v : α) (l : List Byte) : Option α := if l = [] then some v else none

/-- OPEN's parameters. -/
def decodeOpen (l : List Byte) : Option Request := do
  let (slot, l) ← takeNum 1 l
  let (list, l) ← takeList l
  let (cap, l) ← takeOpt (takeNum 1) l
  let (ack, l) ← takeOpt (takeNum 2) l
  let (retry, l) ← takeOpt (takeNum 1) l
  let (holdOff, l) ← takeOpt (takeNum 2) l
  noneLeft (.openConv ⟨slot, list, cap, ack, retry, holdOff⟩) l

/-- ADD PEER's parameters. -/
def decodeAddPeer (l : List Byte) : Option Request := do
  let (node, l) ← takeNum 2 l
  let (a0, l) ← takeOpt takeLink l
  let (a1, l) ← takeOpt takeLink l
  let (a2, l) ← takeOpt takeLink l
  let (a3, l) ← takeOpt takeLink l
  let (flag, l) ← takeOpt (takeNum 1) l
  let (list, l) ← takeOpt takeList l
  let (cap, l) ← takeOpt (takeNum 1) l
  let (ack, l) ← takeOpt (takeNum 2) l
  let (retry, l) ← takeOpt (takeNum 1) l
  let (holdOff, l) ← takeOpt (takeNum 2) l
  noneLeft (.addPeer ⟨node, ⟨a0, a1, a2, a3⟩, flag, list, cap, ack, retry, holdOff⟩) l

/-- SET PATH's parameters. -/
def decodeSetPath (l : List Byte) : Option Request := do
  let (p, l) ← takeNum 1 l
  let (sample, l) ← takeOpt (takeNum 2) l
  let (lf, l) ← takeOpt (takeNum 1) l
  let (af, l) ← takeOpt (takeNum 1) l
  let (settle, l) ← takeOpt (takeNum 2) l
  let (probe, l) ← takeOpt (takeNum 2) l
  let (miss, l) ← takeOpt (takeNum 1) l
  let (src, l) ← takeOpt takeSet l
  let (comp, l) ← takeOpt takeSet l
  let (auto, l) ← takeOpt (takeNum 1) l
  noneLeft (.setPath p ⟨sample, lf, af, settle, probe, miss, src, comp, auto⟩) l

/-- SET STATION's parameters. -/
def decodeSetStation (l : List Byte) : Option Request := do
  let (node, l) ← takeOpt (takeNum 2) l
  let (ft, l) ← takeOpt (takeNum 2) l
  let (inq, l) ← takeOpt (takeNum 2) l
  let (op, l) ← takeOpt (takeNum 2) l
  let (park, l) ← takeOpt (takeNum 2) l
  noneLeft (.setStation ⟨node, ft, inq, op, park⟩) l

/-- A request of one number. -/
def decodeOne (n : Nat) (f : Nat → Request) (l : List Byte) : Option Request := do
  let (v, l) ← takeNum n l
  noneLeft (f v) l

/-- A request of two numbers. -/
def decodeTwo (n m : Nat) (f : Nat → Nat → Request) (l : List Byte) : Option Request := do
  let (v, l) ← takeNum n l
  let (w, l) ← takeNum m l
  noneLeft (f v w) l

/-- SHIFT's parameters. -/
def decodeShift (l : List Byte) : Option Request := do
  let (h, l) ← takeNum 2 l
  let (t, l) ← takeOpt (takeNum 1) l
  noneLeft (.shift h t) l

/-- RESTAGE's parameters. -/
def decodeRestage (l : List Byte) : Option Request := do
  let (h, l) ← takeNum 2 l
  let (v, l) ← takeList l
  noneLeft (.restage h v) l

/-- SCAN's parameters. -/
def decodeScan (l : List Byte) : Option Request := do
  let (st, l) ← takeNum 2 l
  let (n, l) ← takeNum 1 l
  let (d, l) ← takeNum 1 l
  let (f, l) ← takeSet l
  noneLeft (.scan st n d f) l

/-- SET NOTICE MASK's parameter. -/
def decodeSetNoticeMask (l : List Byte) : Option Request := do
  let (r, l) ← takeSet l
  noneLeft (.setNoticeMask r) l

/-- The parameters of the request of a code; the outer `none` is a code outside Table 8-6. -/
def decodeParams (code : Nat) (l : List Byte) : Option (Option Request) :=
  match code with
  | 1 => some (decodeOpen l)
  | 2 => some (decodeTwo 2 1 .close l)
  | 3 => some (decodeTwo 2 2 .hold l)
  | 4 => some (decodeOne 2 .release l)
  | 5 => some (decodeShift l)
  | 6 => some (decodeRestage l)
  | 7 => some (decodeTwo 2 4 .clearReturned l)
  | 8 => some (decodeOne 2 .readConversation l)
  | 9 => some (decodeOne 2 .readJournal l)
  | 10 => some (decodeScan l)
  | 11 => some (decodeAddPeer l)
  | 12 => some (decodeOne 1 .removePeer l)
  | 13 => some (decodeOne 1 .readPeer l)
  | 14 => some (decodeSetPath l)
  | 15 => some (decodeOne 1 .quench l)
  | 16 => some (decodeOne 1 .revive l)
  | 17 => some (decodeOne 1 .drain l)
  | 18 => some (decodeOne 1 .readPath l)
  | 19 => some (decodeSetStation l)
  | 20 => some (noneLeft .readStation l)
  | 21 => some (decodeSetNoticeMask l)
  | 22 => some (decodeOne 1 .restart l)
  | _ => none

/-- An entry of the input buffer as R164 decides it at its taking: bad, answered by decoding, or handed to an owner. -/
inductive Taking where
  | bad
  | unknown (tag code : Nat)
  | malformed (tag code : Nat)
  | send (tag handle kind length : Nat) (payload : List Byte)
  | request (tag : Nat) (r : Request)
deriving DecidableEq, Repr

/-- The echoed code of a reply to a SEND (R159). -/
def sendCode : Nat := 255

/-- The decoding of a SEND body (R158). -/
def decodeSend (tag : Nat) (l : List Byte) : Taking :=
  if l.length < 5 then .malformed tag sendCode
  else if (l.drop 5).length = numberOf ((l.drop 3).take 2) then
    .send tag (numberOf (l.take 2)) (numberOf ((l.drop 2).take 1)) (numberOf ((l.drop 3).take 2)) (l.drop 5)
  else .malformed tag sendCode

/-- The decoding of a REQUEST body (R158): an empty body echoes code 0, a known code that fails echoes itself. -/
def decodeRequest (tag : Nat) : List Byte → Taking
  | [] => .malformed tag 0
  | c :: l =>
      match decodeParams c.toNat l with
      | none => .unknown tag c.toNat
      | some none => .malformed tag c.toNat
      | some (some r) => .request tag r

/-- The decoding of an input buffer entry (R158, R164). -/
def decodeEntry : RecordEnd → Taking
  | .bad => .bad
  | .request tag body => decodeRequest tag body
  | .send tag body => decodeSend tag body

end Sys2Proof.Machine
end

