-- ==== Sys2Proof/Machine/Wire.lean ====
section
/-! DEFINITION. Octet layouts: continuity frames with their FCS and format check (R151 to R154), host-link records with
their check, and the bodies of REPLY, DELIVER and NOTICE (R155, R159 to R161). -/

namespace Sys2Proof.Machine

/-! ## Frames -/

/-- The code of a frame kind (Table 8-2). -/
def kindCode : FrameBody → Nat
  | .data _ _ _ => 1
  | .ack _ => 2
  | .wait _ => 3
  | .inquiry _ => 4
  | .answer _ _ _ => 5
  | .openFrame => 6
  | .openReply _ => 7
  | .close _ => 8
  | .closeReply _ => 9
  | .abandon => 10
  | .probe => 11
  | .echo => 12

/-- A void marker with its sequence (Table 8-3). -/
def octetsOfVoid (v : Option Nat) : List Byte := octetsOfOptNum 4 v

/-- The body octets of a frame (Table 8-3). -/
def FrameBody.octets : FrameBody → List Byte
  | .data q k pl => octetsOf 4 q ++ octetsOf 1 (codeOfKind k) ++ octetsOf 2 pl.length ++ pl
  | .ack d => octetsOf 4 d
  | .wait d => octetsOf 4 d
  | .inquiry v => octetsOfVoid v
  | .answer o v d => octetsOf 1 (codeOfOutcome o) ++ octetsOfVoid v ++ octetsOf 4 d
  | .openFrame => []
  | .openReply a => octetsOf 1 (if a then 1 else 2)
  | .close f => octetsOf 4 f
  | .closeReply f => octetsOf 4 f
  | .abandon => []
  | .probe => []
  | .echo => []

/-- A handle field; absent is 0xFFFF (Table 8-1). -/
def octetsOfHandle (h : Option Nat) : List Byte := octetsOf 2 (h.getD Config.absentHandle)

/-- The continuity header and the body (R152, R153). -/
def TxFrame.content (f : TxFrame) : List Byte :=
  octetsOf 1 1 ++ octetsOf 1 (kindCode f.body) ++ octetsOf 2 f.body.octets.length ++ octetsOf 2 f.srcNode ++
    octetsOf 2 f.dstNode ++ octetsOfHandle f.srcHandle ++ octetsOfHandle f.dstHandle ++ octetsOf 4 f.shift ++
    f.body.octets

/-- Zero octets bring the data field to 46 (R151). -/
def padTo46 (l : List Byte) : List Byte := l ++ List.replicate (46 - l.length) 0#8

/-- One bit of the frame check, least significant bit of the octet first (R151). -/
def crc32Bit (c : BitVec 32) : BitVec 32 :=
  if c.getLsbD 0 then (c >>> 1) ^^^ 0xEDB88320#32 else c >>> 1

/-- One octet of the frame check. -/
def crc32Octet (c : BitVec 32) (o : Byte) : BitVec 32 :=
  (List.range 8).foldl (fun a _ => crc32Bit a) (c ^^^ o.setWidth 32)

/-- The FCS octets over the other octets of a frame (R151): register from all ones, remainder inverted, the coefficient
of x^31 first; it stands in the least significant bit of this register, and a MAC sends an octet's least significant
bit first, so the register leaves least significant octet first. -/
def fcsOf (l : List Byte) : List Byte :=
  let c := ~~~ (l.foldl crc32Octet (BitVec.allOnes 32))
  [c.setWidth 8, (c >>> 8).setWidth 8, (c >>> 16).setWidth 8, (c >>> 24).setWidth 8]

/-- The addresses, type and data field of a frame on the wire (R151). -/
def TxFrame.covered (f : TxFrame) : List Byte :=
  octetsOf 6 f.etherDst.toNat ++ octetsOf 6 f.etherSrc.toNat ++ octetsOf 2 f.etherType ++ padTo46 f.content

/-- All octets of a frame on the wire, FCS included (R151). -/
def TxFrame.octets (f : TxFrame) : List Byte := f.covered ++ fcsOf f.covered

/-- The Ethernet address of a path port: 0A-00-00-pp-hh-ll (R151). -/
def portAddr (p : Path) (nodeId : Nat) : LinkAddr := BitVec.ofNat 48 (0x0A0000000000 + p.num * 65536 + nodeId)

/-- The body fields of a received frame as they stand on the wire, coded values undecoded. -/
inductive RxBody where
  | data (seq kind : Nat) (payload : List Byte)
  | ack (delivered : Nat)
  | wait (delivered : Nat)
  | inquiry (void : Option Nat)
  | answer (outcome : Nat) (void : Option Nat) (delivered : Nat)
  | openFrame
  | openReply (outcome : Nat)
  | close (final : Nat)
  | closeReply (final : Nat)
  | abandon
  | probe
  | echo
deriving DecidableEq, Repr

/-- A received frame that has passed its checks. -/
structure RxFrame where
  srcNode : Nat
  srcHandle : Option Nat
  dstHandle : Option Nat
  shift : Nat
  body : FrameBody
deriving DecidableEq, Repr

/-- A sequence of 1 to 4,294,967,295. -/
def seqOk (q : Nat) : Bool := decide (1 ≤ q) && decide (q ≤ Config.maxSeq)

/-- A through value of 0 to 4,294,967,295. -/
def throughOk (d : Nat) : Bool := decide (d ≤ Config.maxSeq)

/-- A void sequence of 1 or more when present. -/
def voidOk : Option Nat → Bool
  | none => true
  | some v => seqOk v

/-- Check 7 of R154: every coded value among its codes. -/
def RxBody.check : RxBody → Option FrameBody
  | .data q k pl =>
      match kindOfCode k with
      | none => none
      | some kind =>
          if seqOk q && decide (1 ≤ pl.length) && decide (pl.length ≤ Config.maxPayload) then some (.data q kind pl)
          else none
  | .ack d => if throughOk d then some (.ack d) else none
  | .wait d => if throughOk d then some (.wait d) else none
  | .inquiry v => if voidOk v then some (.inquiry v) else none
  | .answer o v d =>
      match outcomeOfCode o with
      | none => none
      | some out => if voidOk v && throughOk d then some (.answer out v d) else none
  | .openFrame => some .openFrame
  | .openReply o => if o = 1 then some (.openReply true) else if o = 2 then some (.openReply false) else none
  | .close f => if throughOk f then some (.close f) else none
  | .closeReply f => if throughOk f then some (.closeReply f) else none
  | .abandon => some .abandon
  | .probe => some .probe
  | .echo => some .echo

/-- A handle field: absent, or 0 to 255 (R154 check 6). -/
def handleOfField (n : Nat) : Option (Option Nat) :=
  if n = Config.absentHandle then some none else if n < Config.conversations then some (some n) else none

/-- Whether the source handle is present for a kind (Table 8-2). -/
def srcHandlePresent : FrameBody → Bool
  | .openReply a => a
  | .probe => false
  | .echo => false
  | _ => true

/-- Whether the destination handle is present for a kind (Table 8-2). -/
def dstHandlePresent : FrameBody → Bool
  | .openFrame => false
  | .probe => false
  | .echo => false
  | _ => true

/-- Checks 5 to 7 of R154 on the fields of a frame. -/
def formatCheck (h : RxHead) (b : RxBody) : Option RxFrame :=
  match b.check with
  | none => none
  | some body =>
    match handleOfField h.srcHandle, handleOfField h.dstHandle with
    | some src, some dst =>
        if (decide (1 ≤ h.srcNode) && decide (h.srcNode ≤ 65534)) && decide (h.shift ≤ Config.maxSeq) &&
            (src.isSome == srcHandlePresent body) && (dst.isSome == dstHandlePresent body) then
          some { srcNode := h.srcNode, srcHandle := src, dstHandle := dst, shift := h.shift, body := body }
        else none
    | _, _ => none

/-- A void marker and sequence that fill their octets exactly. -/
def voidOfOctets (l : List Byte) : Option (Option Nat) :=
  match l with
  | [] => none
  | m :: t =>
      if m = 0#8 then (if t = [] then some none else none)
      else if m = 1#8 then (if t.length = 4 then some (some (numberOf t)) else none)
      else none

/-- Check 3 of R154 and the reading of the body: kind code and body octets. -/
def bodyOfOctets (kind : Nat) (b : List Byte) : Option RxBody :=
  match kind with
  | 1 =>
      if 7 ≤ b.length ∧ (b.drop 7).length = numberOf ((b.drop 5).take 2) then
        some (.data (numberOf (b.take 4)) (numberOf ((b.drop 4).take 1)) (b.drop 7))
      else none
  | 2 => if b.length = 4 then some (.ack (numberOf b)) else none
  | 3 => if b.length = 4 then some (.wait (numberOf b)) else none
  | 4 => (voidOfOctets b).map RxBody.inquiry
  | 5 =>
      if b.length < 6 then none
      else
        (voidOfOctets ((b.drop 1).take (b.length - 5))).map fun v =>
          .answer (numberOf (b.take 1)) v (numberOf (b.drop (b.length - 4)))
  | 6 => if b = [] then some .openFrame else none
  | 7 => if b.length = 1 then some (.openReply (numberOf b)) else none
  | 8 => if b.length = 4 then some (.close (numberOf b)) else none
  | 9 => if b.length = 4 then some (.closeReply (numberOf b)) else none
  | 10 => if b = [] then some .abandon else none
  | 11 => if b = [] then some .probe else none
  | 12 => if b = [] then some .echo else none
  | _ => none

/-- The shortest octet string that holds addresses, type and FCS. -/
def shortestFrame : Nat := 18

/-- Check 1 of R83: the FCS equals the value computed over the other octets. -/
def fcsOk (l : List Byte) : Bool :=
  decide (shortestFrame ≤ l.length) && decide (l.drop (l.length - 4) = fcsOf (l.take (l.length - 4)))

/-- The Ethernet type field of a frame's octets. -/
def typeOfOctets (l : List Byte) : Nat := numberOf ((l.drop 12).take 2)

/-- The Ethernet destination of a frame's octets. -/
def etherDstOfOctets (l : List Byte) : LinkAddr := BitVec.ofNat 48 (numberOf (l.take 6))

/-- Checks 1 to 4 of R154 on the octets of a frame, and its fields when they pass. -/
def fieldsOfOctets (l : List Byte) : Option (RxHead × RxBody) :=
  let data := (l.drop 14).take (l.length - shortestFrame)
  let bodyLen := numberOf ((data.drop 2).take 2)
  if data.length < 16 ∨ numberOf (data.take 1) ≠ 1 ∨ data.length ≠ max 46 (16 + bodyLen) then none
  else
    (bodyOfOctets (numberOf ((data.drop 1).take 1)) ((data.drop 16).take bodyLen)).map fun b =>
      ({ etherDst := etherDstOfOctets l
         etherSrc := BitVec.ofNat 48 (numberOf ((l.drop 6).take 6))
         etherType := typeOfOctets l
         srcNode := numberOf ((data.drop 4).take 2)
         dstNode := numberOf ((data.drop 6).take 2)
         srcHandle := numberOf ((data.drop 8).take 2)
         dstHandle := numberOf ((data.drop 10).take 2)
         shift := numberOf ((data.drop 12).take 4) }, b)

/-! ## Host-link records -/

/-- One bit of the record check, most significant bit first (R155). -/
def crc16Bit (c : BitVec 16) : BitVec 16 :=
  if c.getLsbD 15 then (c <<< 1) ^^^ 0x1021#16 else c <<< 1

/-- One octet of the record check. -/
def crc16Octet (c : BitVec 16) (o : Byte) : BitVec 16 :=
  (List.range 8).foldl (fun a _ => crc16Bit a) (c ^^^ (o.setWidth 16 <<< 8))

/-- The check of a record over its length, kind, tag and body octets (R155). -/
def crc16 (l : List Byte) : BitVec 16 := l.foldl crc16Octet 0xFFFF#16

/-- The two check octets, high octet first (R155). -/
def checkOctets (l : List Byte) : List Byte := octetsOf 2 (crc16 l).toNat

/-- The octets of a record on the link (Table 8-4). -/
def recordOctets (kind tag : Nat) (body : List Byte) : List Byte :=
  let covered := octetsOf 2 (body.length + 2) ++ octetsOf 1 kind ++ octetsOf 1 tag ++ body
  Config.startOctet :: (covered ++ checkOctets covered)

/-- The body of a REPLY (R159). -/
def Reply.body (r : Reply) : List Byte := octetsOf 1 r.code ++ octetsOf 1 (codeOfResult r.result) ++ r.results

/-- The body of a DELIVER (R160). -/
def DlqEntry.body (e : DlqEntry) : List Byte :=
  octetsOf 2 e.handle ++ octetsOf 4 e.seq ++ octetsOf 1 (codeOfKind e.kind) ++ octetsOf 2 e.length ++ e.payload

/-- A conversation snapshot (R161). -/
def ConvSnapshot.octets (c : ConvSnapshot) : List Byte :=
  octetsOf 1 (codeOfState c.state) ++ octetsOfOpt octetsOfPath c.active ++ octetsOf 4 c.settled ++
    octetsOfNextSeq c.nextSeq ++ octetsOf 4 c.delivered ++ octetsOf 2 c.shiftCount ++ octetsOf 2 c.returnedCount ++
    octetsOfOptNum 4 c.lowestReturned ++ octetsOfOpt (fun r => octetsOf 1 (codeOfLapse r)) c.lapseReason

/-- The line state: UP 1, DOWN 2 (R161). -/
def octetsOfLine (up : Bool) : List Byte := octetsOf 1 (if up then 1 else 2)

/-- The alarm state: ACTIVE 1, INACTIVE 2 (R161). -/
def octetsOfAlarm (active : Bool) : List Byte := octetsOf 1 (if active then 1 else 2)

/-- An optional cause (R161). -/
def octetsOfCause (c : Option Cause) : List Byte := octetsOfOpt (fun x => octetsOf 1 (codeOfCause x)) c

/-- The object kind and number of a notice (R161). -/
def NoticeObject.header : NoticeObject → List Byte
  | .station _ _ _ _ => octetsOf 1 1 ++ octetsOf 2 0
  | .path p _ _ _ _ _ _ _ => octetsOf 1 2 ++ octetsOf 2 p.num
  | .peer k _ _ => octetsOf 1 3 ++ octetsOf 2 k
  | .conversation h _ => octetsOf 1 4 ++ octetsOf 2 h

/-- The snapshot of a notice (R161). -/
def NoticeObject.snapshot : NoticeObject → List Byte
  | .station k n f t => octetsOf 1 (codeOfStart k) ++ octetsOf 2 n ++ octetsOf 2 f ++ octetsOf 8 t
  | .path _ st sc cause lu lt al at' =>
      octetsOf 1 (codeOfPathState st) ++ octetsOf 1 sc ++ octetsOfCause cause ++ octetsOfLine lu ++ octetsOf 8 lt ++
        octetsOfAlarm al ++ octetsOf 8 at'
  | .peer _ n r => octetsOf 2 n ++ r.toList.flatMap fun x => octetsOf 1 (codeOfReach x)
  | .conversation _ c => c.octets

/-- The body of a NOTICE (R161). -/
def Notice.body (n : Notice) : List Byte := n.object.header ++ octetsOfReasons n.reasons ++ n.object.snapshot

/-- The octets of a record begun on the outbound link (Table 8-4, R155): the tag of a DELIVER or NOTICE is 0. -/
def OutRecord.octets : OutRecord → List Byte
  | .reply r => recordOctets 3 r.tag r.body
  | .deliver e => recordOctets 4 0 e.body
  | .notice n => recordOctets 5 0 n.body

end Sys2Proof.Machine
end

