-- ==== Sys2Proof/Machine/Operands.lean ====
section
/-! DEFINITION. What the owning blocks accept as operands: handles, paths, slots, lists, sets and ranges of the host's
values (Tables 1-1, 4-1, 6-1, 11-1; R5, R89, R110, R181). -/

namespace Sys2Proof.Machine

/-- A value in a range. -/
def inRange (lo hi v : Nat) : Bool := decide (lo ≤ v) && decide (v ≤ hi)

/-- An optional value in a range when present. -/
def optInRange (lo hi : Nat) : Option Nat → Bool
  | none => true
  | some v => inRange lo hi v

/-- The record in use under a handle 0 to 255; `none` is the BAD-HANDLE case of a host request. -/
def State.recordOf (s : State) (h : Nat) : Option Conv := if h < Config.conversations then s.conv h else none

/-- The paths of a list of path numbers; `none` when a number is not a path. -/
def pathsOfNums : List Nat → Option (List Path)
  | [] => some []
  | n :: l =>
      match Path.ofNum n, pathsOfNums l with
      | some p, some ps => some (p :: ps)
      | _, _ => none

/-- A preference list: 1 to 4 entries, each a path, none repeated (R5 check 4, R110 check 3, R147 check 3). -/
def preferenceList (l : List Nat) : Option (List Path) :=
  if inRange 1 4 l.length && decide l.Nodup then pathsOfNums l else none

/-- ON/OFF as a coded value. -/
def onOff : Nat → Option Bool
  | 0 => some false
  | 1 => some true
  | _ => none

/-- An optional ON/OFF is ON or OFF when present. -/
def optOnOff : Option Nat → Bool
  | none => true
  | some v => (onOff v).isSome

/-- An ON/OFF setting after a request: the value given, or the value it has. -/
def onOffOr (old : Bool) : Option Nat → Bool
  | none => old
  | some v => (onOff v).getD old

/-- The four conversation settings lie in their ranges when present (Table 1-1, Table 6-1). -/
def settingsOk (cap ack retry holdOff : Option Nat) : Bool :=
  optInRange 1 64 cap && optInRange 10 2000 ack && optInRange 0 7 retry && optInRange 0 250 holdOff

/-- Quench sources of coded values; `none` names an unknown source. -/
def sourcesOfCodes : List Nat → Option (List QuenchSource)
  | [] => some []
  | n :: l =>
      match sourceOfCode n, sourcesOfCodes l with
      | some x, some xs => some (x :: xs)
      | _, _ => none

/-- All quench sources in code order. -/
def QuenchSource.all : List QuenchSource := [.score, .plane, .companion, .peerAll]

/-- Quench sources in code order after a request. -/
def sourcesOr (old : List QuenchSource) : Option (List Nat) → List QuenchSource
  | none => old
  | some l => QuenchSource.all.filter fun x => ((sourcesOfCodes l).getD []).contains x

/-- A companion set in path order after a request. -/
def companionsOr (old : List Path) : Option (List Nat) → List Path
  | none => old
  | some l => Path.all.filter fun x => ((pathsOfNums l).getD []).contains x

/-- The sources of a SET PATH are known when present. -/
def sourcesOk : Option (List Nat) → Bool
  | none => true
  | some l => (sourcesOfCodes l).isSome

/-- The companions of a SET PATH are paths other than the path itself when present. -/
def companionsOk (p : Path) : Option (List Nat) → Bool
  | none => true
  | some l =>
      match pathsOfNums l with
      | none => false
      | some ps => !ps.contains p

/-- R89 check 3. -/
def setPathOk (p : Path) (a : SetPathArgs) : Bool :=
  optInRange 100 10000 a.sampleInterval && optOnOff a.lineFilter && optOnOff a.alarmFilter &&
    optInRange 100 60000 a.settleTime && optInRange 10 1000 a.probeInterval && optInRange 2 15 a.missLimit &&
    sourcesOk a.sources && companionsOk p a.companions && optOnOff a.autoRevive

/-- A frame type value: unset, or 0x0600 to 0xFFFF (R181). -/
def frameTypeOk : Option Nat → Bool
  | none => true
  | some v => decide (v = 0) || inRange 0x0600 0xFFFF v

/-- R181 check 2. -/
def setStationOk (a : SetStationArgs) : Bool :=
  optInRange 0 65534 a.node && frameTypeOk a.frameType && optInRange 5 500 a.inquiryTimeout &&
    optInRange 20 2000 a.openTimeout && optInRange 0 3600 a.parkLimit

/-- A link address is neither all zero nor a group address (R110 check 4): the lowest-order bit of the first octet is
bit 40. -/
def linkOk : Option LinkAddr → Bool
  | none => true
  | some a => decide (a ≠ 0#48) && !a.getLsbD 40

/-- R110 check 4. -/
def addPeerValuesOk (a : AddPeerArgs) : Bool :=
  a.links.toList.all linkOk && optOnOff a.flag && settingsOk a.cap a.ackInterval a.retryLimit a.holdOff

/-- The states a SCAN filter may name, by code (R25). -/
def stateOfFilterCode : Nat → Option ConvState
  | 2 => some .opening
  | 3 => some .carrying
  | 4 => some .shiftQueued
  | 5 => some .shifting
  | 6 => some .withheld
  | 7 => some .parked
  | 8 => some .lapsed
  | _ => none

/-- The values of a SCAN are in range (R25). -/
def scanOk (start count dir : Nat) (filter : List Nat) : Bool :=
  inRange 0 255 start && inRange 1 16 count && inRange 1 2 dir && decide (filter ≠ []) &&
    filter.all fun c => (stateOfFilterCode c).isSome

/-- The reason of a code (Table 8-7). -/
def reasonOfCode (c : Nat) : Option Reason := Reason.all.find? fun r => codeOfReason r == c

/-- The mask a SET NOTICE MASK names: codes 1 to 19 (R176). -/
def maskOfCodes (l : List Nat) : Option (List Reason) :=
  if l.all (fun c => (reasonOfCode c).isSome) then some (Reason.all.filter fun r => l.contains (codeOfReason r))
  else none

end Sys2Proof.Machine
end

