-- ==== Sys2Proof/Machine/Ops.lean ====
section
/-! DEFINITION. Shared operations over the records of the part: access, usability, the journal and its cells, the
transmit queues, the shift queue and slots, lapse and VACANT, shift causes and cues (01, 02, 04.8, 07). -/

namespace Sys2Proof.Machine

/-! ## Access -/

/-- Write the record of a handle. -/
def setConv (h : Nat) (c : Conv) (s : State) : State := { s with convs := KMap.set s.convs h c }

/-- Change the record of a handle, if it is in use. -/
def updConv (h : Nat) (f : Conv → Conv) (s : State) : State :=
  match s.conv h with
  | none => s
  | some c => setConv h (f c) s

/-- Change the record of a path. -/
def updPath (p : Path) (f : PathRec → PathRec) (s : State) : State := { s with paths := s.paths.set p (f (s.path p)) }

/-- Change a present peer entry. -/
def updPeer (k : Nat) (f : Peer → Peer) (s : State) : State :=
  match s.peer k with
  | none => s
  | some e => { s with prt := { s.prt with peers := KMap.set s.prt.peers k (f e) } }

/-- Change the per-path fields of a present peer entry. -/
def updLink (k : Nat) (p : Path) (f : PeerLink → PeerLink) (s : State) : State :=
  updPeer k (fun e => { e with links := e.links.set p (f (e.links.get p)) }) s

/-- The shift slot of a number, if in use. -/
def State.slot (s : State) (k : Nat) : Option Slot := KMap.get? s.she.slots k

/-- Write a shift slot. -/
def setSlot (k : Nat) (v : Slot) (s : State) : State := { s with she := { s.she with slots := KMap.set s.she.slots k v } }

/-- Free a shift slot. -/
def freeSlot (k : Nat) (s : State) : State := { s with she := { s.she with slots := KMap.erase s.she.slots k } }

/-- The handles in use, ascending. -/
def State.handles (s : State) : List Nat := KMap.keys s.convs

/-- The peer slots present, ascending. -/
def State.peerSlots (s : State) : List Nat := KMap.keys s.prt.peers

/-- The shift slots in use, ascending. -/
def State.slotsInUse (s : State) : List Nat := KMap.keys s.she.slots

/-- A period of milliseconds from now, as an expiry station time (R180). -/
def State.after (s : State) (ms : Nat) : Nat := s.now + ms * 1000

/-- Station time stands at least at `t`: an expiry is taken when station time has reached it (R180). -/
def advanceTo (t : Nat) (s : State) : State := { s with stc := { s.stc with time := max s.stc.time t } }

/-- The station is configured (Table 11-1). -/
def State.configured (s : State) : Bool := decide (s.stc.nodeId ≠ 0) && decide (s.stc.frameType ≠ 0)

/-! ## Usability (R5, 4.1) -/

/-- SOUND or SUSPECT. -/
def PathState.inService : PathState → Bool
  | .sound => true
  | .suspect => true
  | _ => false

/-- PROVING, SOUND or SUSPECT: the states in which the score changes, sources quench and the CVT takes frames. -/
def PathState.live : PathState → Bool
  | .proving => true
  | .sound => true
  | .suspect => true
  | _ => false

/-- The link address of a peer on a path. -/
def State.linkOn (s : State) (k : Nat) (p : Path) : Option LinkAddr :=
  match s.peer k with
  | none => none
  | some e => (e.links.get p).link

/-- The reachability of a peer on a path. -/
def State.reachOn (s : State) (k : Nat) (p : Path) : Reach :=
  match s.peer k with
  | none => .unknown
  | some e => (e.links.get p).reach

/-- A path is usable for a peer: SOUND or SUSPECT, with the peer REACHABLE on it. -/
def State.usable (s : State) (k : Nat) (p : Path) : Bool :=
  (s.path p).state.inService && decide (s.reachOn k p = .reachable)

/-! ## The journal (02) -/

/-- The record is SENT. -/
def JRec.isSent (r : JRec) : Bool := decide (r.status = .sent)

/-- The record is WAITING. -/
def JRec.isWaiting (r : JRec) : Bool := decide (r.status = .waiting)

/-- The journal holds a SENT record. -/
def hasSent (j : List JRec) : Bool := j.any JRec.isSent

/-- The journal holds a WAITING record. -/
def hasWaiting (j : List JRec) : Bool := j.any JRec.isWaiting

/-- The SENT single-shot record, if any (R34: at most one). -/
def sentSingle (j : List JRec) : Option JRec := j.find? fun r => r.isSent && decide (r.kind = .singleShot)

/-- The oldest SENT record. -/
def oldestSent (j : List JRec) : Option JRec := j.find? JRec.isSent

/-- A settle on `d` covers the record (R36), unless its sequence is the excepted one (R45, R139). -/
def JRec.covered (d : Nat) (except : Option Nat) (r : JRec) : Bool :=
  (r.isSent || r.isWaiting) && decide (r.seq ≤ d) && decide (except ≠ some r.seq)

/-- SENT ordinary records become WAITING, keeping their sent shift (R38, R41, R139). -/
def goBack (j : List JRec) : List JRec :=
  j.map fun r => if r.isSent && decide (r.kind = .ordinary) then { r with status := .waiting } else r

/-- WAITING and SENT records become UNSURE (R48). -/
def makeUnsure (j : List JRec) : List JRec :=
  j.map fun r => if r.isSent || r.isWaiting then { r with status := .unsure } else r

/-- The SENT record of a sequence becomes RETURNED (R47). -/
def makeReturned (v : Nat) (j : List JRec) : List JRec :=
  j.map fun r => if r.isSent && decide (r.seq = v) then { r with status := .returned } else r

/-- The record of a sequence becomes SENT under a shift number (R33). -/
def makeSent (q shift : Nat) (j : List JRec) : List JRec :=
  j.map fun r => if r.seq = q then { r with status := .sent, sentShift := some shift } else r

/-- The highest sequence the conversation has assigned (R35); also its final sequence (R17). -/
def Conv.highest (c : Conv) : Nat :=
  match c.nextSeq with
  | some n => n - 1
  | none => Config.maxSeq

/-- The transmittable record of a CARRYING conversation (R32), the path apart. -/
def Conv.transmittable (c : Conv) : Option JRec :=
  if c.waitPause.isSome then none
  else
    match c.journal.find? JRec.isWaiting with
    | none => none
    | some r =>
        match r.kind with
        | .ordinary => if (sentSingle c.journal).isSome then none else some r
        | .singleShot => if hasSent c.journal then none else some r

/-- Cells return to the tail of the free list, in the order given (R27). -/
def returnCells (l : List Nat) (s : State) : State :=
  { s with rts := { cells := forEach l (fun n m => KMap.erase m n) s.rts.cells, free := s.rts.free ++ l } }

/-- A cell is issued from the head of the free list and filled (R27, R31); nothing when no cell is free. -/
def issueCell (payload : List Byte) (s : State) : Option (Nat × State) :=
  match s.rts.free with
  | [] => none
  | n :: rest => some (n, { s with rts := { cells := KMap.set s.rts.cells n payload, free := rest } })

/-! ## Transmit queues (4.8) -/

/-- A frame to a peer on a path, its destination read from the entry now (R109); nothing without a link address. -/
def State.frameTo (s : State) (k : Nat) (p : Path) (src dst : Option Nat) (shift : Nat) (body : FrameBody)
    (owner : Option Nat) : Option QFrame :=
  match s.peer k with
  | none => none
  | some e =>
      (e.links.get p).link.map fun a =>
        { dstNode := e.node, dstAddr := a, srcHandle := src, dstHandle := dst, shift := shift, body := body,
          owner := owner }

/-- A frame joins class 1, unless it is full (R86). -/
def queue1 (p : Path) (f : QFrame) (s : State) : State :=
  updPath p (fun r => if r.class1.length < Config.class1Frames then { r with class1 := r.class1 ++ [f] } else r) s

/-- The frame is an OPEN. -/
def QFrame.isOpen (f : QFrame) : Bool := decide (f.body = .openFrame)

/-- A queued frame is the previous copy of another (R86): the same frame, or an OPEN of the same handle. -/
def QFrame.copyOf (f g : QFrame) : Bool := decide (f = g) || (f.isOpen && g.isOpen && decide (f.srcHandle = g.srcHandle))

/-- Whether a body is an INQUIRY, CLOSE or OPEN, the kinds of which R86 queues one copy. -/
def FrameBody.repeats : FrameBody → Bool
  | .inquiry _ => true
  | .close _ => true
  | .openFrame => true
  | _ => false

/-- A frame joins class 2, unless its previous copy stands there or the class is full (R86). -/
def queue2 (p : Path) (f : QFrame) (s : State) : State :=
  updPath p
    (fun r =>
      if f.body.repeats && r.class2.any f.copyOf then r
      else if r.class2.length < Config.class2Frames then { r with class2 := r.class2 ++ [f] }
      else r) s

/-- A PROBE joins class 3, unless one for the same peer stands there (R86). -/
def queue3 (p : Path) (f : QFrame) (s : State) : State :=
  updPath p (fun r => if r.class3.any (fun g => g.dstNode == f.dstNode) then r else { r with class3 := r.class3 ++ [f] }) s

/-- A frame joins class 4 (R62, R86). -/
def queue4 (p : Path) (f : QFrame) (s : State) : State := updPath p (fun r => { r with class4 := r.class4 ++ [f] }) s

/-- Queue a frame if it could be addressed. -/
def queueOpt (q : QFrame → State → State) (f : Option QFrame) (s : State) : State :=
  match f with
  | none => s
  | some f => q f s

/-- The frame belongs to a conversation. -/
def QFrame.ownedBy (h : Nat) (f : QFrame) : Bool := decide (f.owner = some h)

/-- A conversation's queued frames leave a path record. -/
def PathRec.withdraw (h : Nat) (r : PathRec) : PathRec :=
  { r with
    class1 := r.class1.filter fun f => !f.ownedBy h
    class2 := r.class2.filter fun f => !f.ownedBy h
    class3 := r.class3.filter fun f => !f.ownedBy h
    class4 := r.class4.filter fun f => !f.ownedBy h }

/-- Every queued and unbegun frame of a conversation is withdrawn (R1, R21). -/
def withdrawConv (h : Nat) (s : State) : State := { s with paths := s.paths.map (PathRec.withdraw h) }

/-- The conversation's class-2 frames are withdrawn from a path (R123 item 2, R137 item 1). -/
def withdrawClass2 (h : Nat) (p : Path) (s : State) : State :=
  updPath p (fun r => { r with class2 := r.class2.filter fun f => !f.ownedBy h }) s

/-! ## The shift queue and slots (7.3 to 7.6) -/

/-- The class of an entry, fixed by the journal at joining (R129). -/
def classOf (c : Conv) : ShiftClass := if (sentSingle c.journal).isSome then .commitFirst else .ordinary

/-- An entry is COMMIT-FIRST. -/
def QueueEntry.isCommit (e : QueueEntry) : Bool := decide (e.cls = .commitFirst)

/-- An entry takes its place: COMMIT-FIRST behind the last COMMIT-FIRST, ORDINARY at the tail (R129). -/
def placeEntry (e : QueueEntry) (q : List QueueEntry) : List QueueEntry :=
  match e.cls with
  | .commitFirst => q.takeWhile QueueEntry.isCommit ++ e :: q.dropWhile QueueEntry.isCommit
  | .ordinary => q ++ [e]

/-- A conversation becomes SHIFT-QUEUED and joins the queue (R129), before any grant. -/
def joinQueue (h : Nat) (s : State) : State :=
  match s.conv h with
  | none => s
  | some c =>
      let s1 := setConv h { c with state := .shiftQueued } s
      { s1 with she := { s1.she with queue := placeEntry ⟨h, classOf c⟩ s1.she.queue } }

/-- The handle leaves the shift queue and its slot, whichever it holds (R1, R21, R130). -/
def leaveShift (h : Nat) (s : State) : State :=
  { s with she :=
      { queue := s.she.queue.filter fun e => decide (e.handle ≠ h)
        slots := s.she.slots.filter fun e => decide (e.2.handle ≠ h) } }

/-- A path that the shift may take: not tried, in the list, usable (R133). -/
def State.shiftOk (s : State) (c : Conv) (tried : List Path) (p : Path) : Bool :=
  !tried.contains p && c.prefs.contains p && s.usable c.peer p

/-- The candidate of R133: the forced target, else the first SOUND path of the list, else the first SUSPECT one. -/
def State.candidate (s : State) (c : Conv) (tried : List Path) : Option Path :=
  match c.forced.filter (s.shiftOk c tried) with
  | some p => some p
  | none =>
      match c.prefs.find? (fun p => s.shiftOk c tried p && decide ((s.path p).state = .sound)) with
      | some p => some p
      | none => c.prefs.find? fun p => s.shiftOk c tried p && decide ((s.path p).state = .suspect)

/-- The slot's INQUIRY is queued on its candidate (R135, R136). -/
def queueSlotInquiry (sl : Slot) (c : Conv) (p : Path) (s : State) : State :=
  queueOpt (queue2 p)
    (s.frameTo c.peer p (some sl.handle) c.peerHandle sl.newShift (.inquiry sl.void) (some sl.handle)) s

/-- A conversation becomes PARKED now (R134, R8, R14). -/
def park (h : Nat) (s : State) : State :=
  raiseConv h .parked
    (updConv h (fun c => { c with state := .parked, active := none, parkStart := some s.now, forced := none }) s)

/-- The choice of a candidate for a slot (R133 to R135), before any grant of a slot it frees. -/
def chooseCore (k : Nat) (s : State) : State :=
  match s.slot k with
  | none => s
  | some sl =>
      match s.conv sl.handle with
      | none => s
      | some c =>
          match s.candidate c sl.tried with
          | some p =>
              let v := match sl.phase with
                | .holdOff => (sentSingle c.journal).map JRec.seq
                | .inquiring => sl.void
              let sl' : Slot :=
                { sl with phase := .inquiring, candidate := some p, attempt := some 1, void := v,
                          timer := some (s.after s.stc.inquiryTimeout) }
              queueSlotInquiry sl' c p (setSlot k sl' s)
          | none => park sl.handle (freeSlot k s)

/-- A lapse (R21), before any grant of a slot it frees. A VACANT or LAPSED record ignores it. -/
def lapseCore (h : Nat) (why : LapseReason) (s : State) : State :=
  match s.conv h with
  | none => s
  | some c =>
      if c.state = .lapsed then s
      else
        raiseConv h .lapsed
          (withdrawConv h
            (leaveShift h
              (setConv h
                { c with
                  state := .lapsed
                  lapseReason := some why
                  active := none
                  forced := none
                  openAttempt := none
                  ackPath := none
                  parkStart := none
                  hold := none
                  ackTimer := .stopped
                  waitPause := none
                  openTimer := none
                  closeTimer := none
                  retryCount := 0
                  journal := makeUnsure c.journal } s)))

/-- A staged list present becomes the preference list (R132 step 2, R148). -/
def applyStaged (h : Nat) (c : Conv) (s : State) : State :=
  match c.staged with
  | none => s
  | some l => raiseConv h .stagedApplied (setConv h { c with prefs := l, staged := none } s)

/-- A slot grant to a conversation whose entry has left the queue (R132). -/
def grant (k h : Nat) (s : State) : State :=
  match s.conv h with
  | none => s
  | some c =>
      if c.sendShift = Config.maxSeq then lapseCore h .notKnown s
      else
        let s1 := applyStaged h c s
        let s2 := updConv h (fun c => { c with state := .shifting, sendShift := c.sendShift + 1 }) s1
        let s3 := setSlot k
          { handle := h, phase := .holdOff, newShift := c.sendShift + 1, candidate := none, tried := [],
            attempt := none, void := none, timer := some (s.after c.holdOff) } s2
        let s4 := raiseConv h .shiftBegun s3
        if c.holdOff = 0 then chooseCore k s4 else s4

/-- The lowest-numbered free slot (R131). -/
def State.freeSlotNo (s : State) : Option Nat := KMap.lowestFree s.she.slots Config.shiftSlots

/-- The slot arbiter: grants while a slot is free and the queue is not empty, at most `n` times (R131). -/
def grants : Nat → State → State
  | 0, s => s
  | n + 1, s =>
      match s.she.queue, s.freeSlotNo with
      | e :: rest, some k => grants n (grant k e.handle { s with she := { s.she with queue := rest } })
      | _, _ => s

/-- Every grant that stands open (R131): each takes one entry, so the length of the queue bounds them. -/
def grantAll (s : State) : State := grants s.she.queue.length s

/-- A conversation joins the queue, and is granted a slot at once if one is free (R129, R131). -/
def enterQueue (h : Nat) (s : State) : State := grantAll (joinQueue h s)

/-- A slot chooses its candidate; a slot freed by parking goes to the queue's head (R133, R134). -/
def choose (k : Nat) (s : State) : State := grantAll (chooseCore k s)

/-- A lapse, its slot going to the queue's head (R21, R131). Neither rule says where among the steps of R21 the grant
stands: it follows the last of them and LAPSED (DESIGN CHOICE, log entry 38). -/
def lapse (h : Nat) (why : LapseReason) (s : State) : State := grantAll (lapseCore h why s)

/-- The delivery queue entries of a conversation are discarded; a head in transmission leaves an orphan (R1, R54). -/
def discardDeliveries (h : Nat) (s : State) : State :=
  let tx := match s.dlq.tx, s.dlq.entries with
    | .head, e :: _ => if e.handle = h then DlqTx.orphaned else .head
    | t, _ => t
  { s with dlq := { entries := s.dlq.entries.filter fun e => decide (e.handle ≠ h), tx := tx } }

/-- The record of a handle leaves the table. -/
def eraseConv (h : Nat) (s : State) : State := { s with convs := KMap.erase s.convs h }

/-- A record becomes VACANT (R1, R175), CLOSED being raised and frozen with its snapshot. R27 names no order among the
cells that return together: they go in journal order (DESIGN CHOICE, log entry 34). R175 does not say whether the
RETURNED count and lowest RETURNED sequence are read before R1 empties the journal: they are read before (DEDUCED, log
entry 37). R1 and R131 do not say where among the steps of R1 a freed slot is granted: the grant follows the last of them
(DESIGN CHOICE, log entry 38). -/
def vacate (h : Nat) (s : State) : State :=
  match s.conv h with
  | none => s
  | some c =>
      grantAll
        (eraseConv h
          (freezeClosing h c
            (withdrawConv h (discardDeliveries h (leaveShift h (returnCells (c.journal.map JRec.cell) s))))))

/-! ## Shift causes and reattach cues (7.1, 7.9) -/

/-- A shift cause taken by a CARRYING conversation (R123); without effect on any other (R124). -/
def shiftCause (automatic : Bool) (h : Nat) (s : State) : State :=
  match s.conv h with
  | none => s
  | some c =>
      if c.state = .carrying then
        let c1 : Conv :=
          { c with
            active := none
            ackTimer := .stopped
            waitPause := none
            closeStage := if c.closeStage = .closeSent then .draining else c.closeStage
            closeTimer := none }
        let s1 := match c.active with
          | none => s
          | some p => withdrawClass2 h p s
        if automatic && c.hold.isSome then raiseConv h .withheld (setConv h { c1 with state := .withheld } s1)
        else enterQueue h (setConv h c1 s1)
      else s

/-- A reattach cue taken by a PARKED conversation (R145); without effect on any other. -/
def cue (h : Nat) (s : State) : State :=
  match s.conv h with
  | none => s
  | some c =>
      if c.state = .parked then
        let c1 : Conv := { c with parkStart := none }
        if c.hold.isSome then raiseConv h .withheld (setConv h { c1 with state := .withheld } s)
        else enterQueue h (setConv h c1 s)
      else s

/-- PARKED conversations with a peer, a path of their list that is usable for it (R68, R77, R118). -/
def State.cueable (s : State) (k : Option Nat) (p : Path) (h : Nat) : Bool :=
  match s.conv h with
  | none => false
  | some c =>
      decide (c.state = .parked) && c.prefs.contains p && s.usable c.peer p &&
        (match k with
         | none => true
         | some k => decide (c.peer = k))

/-- Cues in ascending handle order to the PARKED conversations, of one peer or of all, that list the path and can use
it. -/
def cueAll (k : Option Nat) (p : Path) (s : State) : State :=
  forEach (s.handles.filter (s.cueable k p)) cue s

/-! ## Quiet point, CLOSE frame (R148, R17) -/

/-- A staged list takes effect at a quiet point of a CARRYING conversation (R148). -/
def quietPoint (h : Nat) (s : State) : State :=
  match s.conv h with
  | none => s
  | some c =>
      if c.state = .carrying && !hasSent c.journal then
        match c.staged with
        | none => s
        | some l =>
            let s1 := applyStaged h c s
            match c.active with
            | none => s1
            | some p => if l.contains p then s1 else shiftCause true h s1
      else s

/-- The CLOSE frame of a DRAINING, CARRYING conversation with nothing WAITING or SENT (R17). -/
def checkClose (h : Nat) (s : State) : State :=
  match s.conv h with
  | none => s
  | some c =>
      if c.state = .carrying && decide (c.closeStage = .draining) && !hasSent c.journal && !hasWaiting c.journal then
        match c.active with
        | none => s
        | some p =>
            let s1 := setConv h { c with closeStage := .closeSent, closeTimer := some (s.after c.ackInterval) } s
            queueOpt (queue2 p) (s1.frameTo c.peer p (some h) c.peerHandle 0 (.close c.highest) (some h)) s1
      else s

/-- The checks that follow a settle or an entry into CARRYING (R36, R141). -/
def afterChecks (h : Nat) (s : State) : State := checkClose h (quietPoint h s)

/-! ## Acknowledgements (3.5) -/

/-- ACK or WAIT, with the delivered-through to be read again when it is begun (R63). -/
def ackBody (wait : Bool) (d : Nat) : FrameBody := if wait then .wait d else .ack d

/-- A path in SOUND or SUSPECT. -/
def State.serving (s : State) (p : Path) : Bool := (s.path p).state.inService

/-- The order of R62 for an acknowledgement's path, with the frame's own path if there is one. -/
def State.ackPathFor (s : State) (c : Conv) (own : Option Path) : Option Path :=
  match own.filter s.serving with
  | some p => some p
  | none =>
      match c.ackPath.filter s.serving with
      | some p => some p
      | none =>
          match c.active with
          | some p => some p
          | none => c.prefs.find? (s.usable c.peer)

/-- A new acknowledgement frame joins class 4 on the path R62 chooses, if it chooses one. -/
def placeAck (h : Nat) (wait : Bool) (own : Option Path) (s : State) : State :=
  match s.conv h with
  | none => s
  | some c =>
      if c.state = .lapsed then s
      else
        match s.ackPathFor c own with
        | none => s
        | some p =>
            queueOpt (queue4 p)
              (s.frameTo c.peer p (some h) c.peerHandle c.inShift (ackBody wait c.delivered) (some h)) s

/-- A pending acknowledgement of the conversation stands on some path (R62). -/
def State.ackPending (s : State) (h : Nat) : Bool := s.paths.toList.any fun r => r.class4.any (QFrame.ownedBy h)

/-- The pending acknowledgement of the conversation takes a kind, keeping its path and place (R62). -/
def rekindAck (h : Nat) (wait : Bool) (d : Nat) (s : State) : State :=
  { s with paths := s.paths.map fun r =>
      { r with class4 := r.class4.map fun f => if f.ownedBy h then { f with body := ackBody wait d } else f } }

/-- A request for an ACK or a WAIT (R62). -/
def requestAck (h : Nat) (wait : Bool) (own : Option Path) (s : State) : State :=
  match s.conv h with
  | none => s
  | some c =>
      if c.state = .lapsed then s
      else if s.ackPending h then rekindAck h wait c.delivered s
      else placeAck h wait own s

/-- The body is a WAIT. -/
def FrameBody.isWait : FrameBody → Bool
  | .wait _ => true
  | _ => false

/-- A withdrawn acknowledgement is chosen again from the second place of the order (R63). -/
def replaceAck (f : QFrame) (s : State) : State :=
  match f.owner with
  | none => s
  | some h => placeAck h f.body.isWait none s

end Sys2Proof.Machine
end

