-- ==== Sys2Proof/Machine/Service.lean ====
section
/-! DEFINITION. Shared operations over paths and peers: leaving service, the fault score, quench and companions, probe
rounds and reachability, revival (04, 05, 06). -/

namespace Sys2Proof.Machine

/-! ## Leaving service (4.6, R137) -/

/-- The conversation of a handle is active on a path. -/
def State.activeOn (s : State) (p : Path) (h : Nat) : Bool :=
  match s.conv h with
  | none => false
  | some c => decide (c.active = some p)

/-- The body is an INQUIRY. -/
def FrameBody.isInquiry : FrameBody → Bool
  | .inquiry _ => true
  | _ => false

/-- The unbegun INQUIRY of a conversation is withdrawn from a path (R137 item 1). The rule names the slot's own; one that
an earlier shift of the conversation left queued there goes with it (DESIGN CHOICE, log entry 39). -/
def withdrawInquiry (h : Nat) (p : Path) (s : State) : State :=
  updPath p (fun r => { r with class2 := r.class2.filter fun f => !(f.ownedBy h && f.body.isInquiry) }) s

/-- A slot's candidate leaves the usable set (R137). -/
def dropCandidate (k : Nat) (s : State) : State :=
  match s.slot k with
  | none => s
  | some sl =>
      match sl.candidate with
      | none => s
      | some p =>
          choose k
            (setSlot k { sl with candidate := none, attempt := none, timer := none, tried := insertIn Path.all p sl.tried }
              (withdrawInquiry sl.handle p s))

/-- The slot's candidate is the path, and its conversation names the peer if one is given. -/
def State.slotOn (s : State) (p : Path) (peer : Option Nat) (k : Nat) : Bool :=
  match s.slot k with
  | none => false
  | some sl =>
      decide (sl.candidate = some p) &&
        (match peer with
         | none => true
         | some n => decide ((s.conv sl.handle).map Conv.peer = some n))

/-- The report that a candidate has left the usable set, to each slot it concerns (R81 item 2, R117 item 3, R137). Those
rules name no order among several slots: the model tells them by ascending slot number, each choosing again before the
next is told (DESIGN CHOICE, log entry 35). -/
def dropCandidates (p : Path) (peer : Option Nat) (s : State) : State :=
  forEach s.slotsInUse (fun k t => if t.slotOn p peer k then dropCandidate k t else t) s

/-- The effects of leaving service, with the class-4 frames withdrawn from the path (R81). Item 3 names no order among
several withdrawn frames: the model chooses their new paths in the order they had in the old queue (DESIGN CHOICE, log
entry 36). -/
def leaveService (p : Path) (acks : List QFrame) (s : State) : State :=
  let s1 := forEach (s.handles.filter (s.activeOn p)) (shiftCause true) s
  forEach acks replaceAck (dropCandidates p none s1)

/-- The queues of classes 1 to 4 are emptied (R82). -/
def PathRec.emptied (r : PathRec) : PathRec := { r with class1 := [], class2 := [], class3 := [], class4 := [] }

/-! ## Quench (05) -/

/-- The paths whose companion set holds a path, ascending (5.1). -/
def State.dependents (s : State) (p : Path) : List Path := Path.all.filter fun q => (s.path q).companions.contains p

/-- A condition of a source quenches the path: the source is enabled and the path is live (R93). -/
def State.fires (s : State) (src : QuenchSource) (p : Path) : Bool :=
  (s.path p).sources.contains src && (s.path p).state.live

/-- A path enters QUENCHED (R100) and hands COMPANION down its dependents (R98). A chain is at most four paths long, so
four suffice for `n`. -/
def enterQuench : Nat → Path → Cause → State → State
  | 0, _, _, s => s
  | n + 1, p, why, s =>
      let r := s.path p
      let s1 := updPath p
        (fun r => { r with state := .quenched, cause := some why, settleTimer := none, class2 := [], class4 := [] }) s
      let s2 := if r.state.inService then leaveService p r.class4 s1 else s1
      let s3 := raisePath p .state s2
      forEach (s3.dependents p) (fun q t => if t.fires .companion q then enterQuench n q .companion t else t) s3

/-- A path is quenched with a cause (R100). -/
def quenchPath (p : Path) (why : Cause) (s : State) : State := enterQuench 4 p why s

/-- A condition is handed to the quench unit (R93). -/
def handCondition (src : QuenchSource) (why : Cause) (p : Path) (s : State) : State :=
  if s.fires src p then quenchPath p why s else s

/-- Some path of the companion set is QUENCHED. -/
def State.companionQuenched (s : State) (p : Path) : Bool :=
  (s.path p).companions.any fun q => decide ((s.path q).state = .quenched)

/-- The check at entry into PROVING (R99). -/
def provingCheck (p : Path) (s : State) : State :=
  let r := s.path p
  if r.sources.contains .plane && r.alarm then quenchPath p .plane s
  else if r.sources.contains .companion && s.companionQuenched p then quenchPath p .companion s
  else s

/-- The cause-present test is passed (R103). -/
def State.testPassed (s : State) (p : Path) : Bool :=
  let r := s.path p
  !(r.sources.contains .plane && r.alarm) && !(r.sources.contains .companion && s.companionQuenched p) &&
    !(r.sources.contains .score && decide (r.score = Config.maxScore))

/-! ## The fault score (4.5) -/

/-- A new score with the comparisons that follow it (R78, R79). -/
def applyScore (p : Path) (new : Nat) (s : State) : State :=
  let r := s.path p
  if r.state.live then
    let s1 := updPath p (fun r => { r with score := new }) s
    let s2 :=
      if decide (r.state = .sound) && decide (128 ≤ new) then
        raisePath p .state (updPath p (fun r => { r with state := .suspect }) s1)
      else if decide (r.state = .suspect) && decide (new < 96) then
        cueAll none p (raisePath p .state (updPath p (fun r => { r with state := .sound }) s1))
      else s1
    if decide (new = Config.maxScore) && decide (r.score < Config.maxScore) then handCondition .score .score p s2
    else s2
  else s

/-- Evidence of loss (Table 4-3). -/
def addScore (p : Path) (n : Nat) (s : State) : State := applyScore p (min Config.maxScore ((s.path p).score + n)) s

/-- Evidence of traffic completed (Table 4-3). -/
def lowerScore (p : Path) (s : State) : State := applyScore p ((s.path p).score - 1) s

/-! ## Probe rounds and reachability (06) -/

/-- A peer entry has a link address on a path. -/
def State.hasLink (s : State) (p : Path) (k : Nat) : Bool := (s.linkOn k p).isSome

/-- A PROBE for a peer joins class 3 of a path (R114). -/
def queueProbe (p : Path) (k : Nat) (s : State) : State :=
  queueOpt (queue3 p) (s.frameTo k p none none 0 .probe none) s

/-- Write a round timer. -/
def setRound (p : Path) (t : Option Nat) (s : State) : State := { s with prt := { s.prt with rounds := s.prt.rounds.set p t } }

/-- A round begins (R114 items 2 to 4). -/
def beginRound (p : Path) (s : State) : State :=
  let s1 := forEach s.peerSlots (fun k t => updLink k p (fun l => { l with heard := false }) t) s
  let s2 := forEach (s1.peerSlots.filter (s1.hasLink p)) (queueProbe p) s1
  setRound p (some (s2.after (s2.path p).probeInterval)) s2

/-- A peer becomes UNKNOWN on a path, REACHABILITY being raised when that changes it (R113, R118). -/
def becomeUnknown (p : Path) (k : Nat) (s : State) : State :=
  let s1 := if s.hasLink p k && decide (s.reachOn k p ≠ .unknown) then raisePeer k .reachability s else s
  updLink k p (fun l => { l with reach := .unknown, miss := 0, heard := false }) s1

/-- Probe rounds stop on a path (R113). -/
def stopRounds (p : Path) (s : State) : State :=
  let s1 := updPath p (fun r => { r with class3 := [] }) (setRound p none s)
  forEach s1.peerSlots (becomeUnknown p) s1

/-- The PEER-ALL condition over the peers of some slots (R97). -/
def State.peerAllOver (s : State) (p : Path) (slots : List Nat) : Bool :=
  let here := slots.filter (s.hasLink p)
  decide (here ≠ []) && here.all fun k => decide (s.reachOn k p = .unreachable)

/-- The conversation of a handle names a peer and is active on a path. -/
def State.activeFor (s : State) (k : Nat) (p : Path) (h : Nat) : Bool :=
  match s.conv h with
  | none => false
  | some c => decide (c.active = some p) && decide (c.peer = k)

/-- The PEER-ALL condition is handed for a live path where it holds (R97). -/
def testPeerAll (p : Path) (s : State) : State :=
  if s.peerAllOver p s.peerSlots then handCondition .peerAll .peerAll p s else s

/-- A peer becomes UNREACHABLE on a path (R117). -/
def becomeUnreachable (k : Nat) (p : Path) (s : State) : State :=
  let s1 := updLink k p (fun l => { l with reach := .unreachable }) s
  let s2 := forEach (s1.handles.filter (s1.activeFor k p)) (shiftCause true) s1
  let s3 := dropCandidates p (some k) s2
  raisePeer k .reachability (testPeerAll p s3)

/-- The miss of one peer at a round close (R115 item 1). -/
def missRound (p : Path) (k : Nat) (s : State) : State :=
  let s1 := updLink k p (fun l => { l with miss := min Config.maxMiss (l.miss + 1) }) s
  match s1.peer k with
  | none => s1
  | some e =>
      let l := e.links.get p
      if decide (l.reach ≠ .unreachable) && decide ((s1.path p).missLimit ≤ l.miss) then becomeUnreachable k p s1
      else s1

/-- The peer has been heard in the round. -/
def State.heardOn (s : State) (p : Path) (k : Nat) : Bool :=
  match s.peer k with
  | none => false
  | some e => (e.links.get p).heard

/-- A round is closed (R115). An entry added in mid-round, which R110 lets take part in the next round, is a present entry
at this close: not heard, it counts a miss, and it counts towards a silent round (DEDUCED, log entry 40). -/
def closeRound (p : Path) (s : State) : State :=
  let here := s.peerSlots.filter (s.hasLink p)
  let s1 := forEach (here.filter fun k => !s.heardOn p k) (missRound p) s
  if decide (here ≠ []) && here.all (fun k => !s.heardOn p k) then addScore p 8 s1 else s1

/-- The Shift Engine marks a peer on a path after three unanswered inquiries (R119). -/
def markPeer (k : Nat) (p : Path) (s : State) : State :=
  if s.hasLink p k && decide (s.reachOn k p ≠ .unreachable) then
    becomeUnreachable k p (updLink k p (fun l => { l with miss := (s.path p).missLimit, heard := false }) s)
  else s

/-! ## Revival (05) -/

/-- The recorded cause of a QUENCHED path has ended, for the causes that revive automatically (R106). -/
def State.causeEnded (s : State) (p : Path) : Bool :=
  match (s.path p).cause with
  | some .plane => !(s.path p).alarm
  | some .companion => !s.companionQuenched p
  | some .peerAll => s.peerSlots.any fun k => s.hasLink p k && decide (s.reachOn k p = .reachable)
  | _ => false

/-- An attempt of auto-revival succeeds (R106). -/
def State.autoReady (s : State) (p : Path) : Bool :=
  (s.path p).autoRevive && decide ((s.path p).state = .quenched) && s.causeEnded p && s.testPassed p

/-- The new state and timers of a revival (R105 items 1 and 2). -/
def revivedPath (p : Path) (s : State) : State :=
  let r := s.path p
  if r.lineUp then
    let s1 := updPath p
      (fun r => { r with cause := none, score := 0, state := .proving, settleTimer := some (s.after r.settleTime) }) s
    if r.state = .drained then beginRound p s1 else s1
  else
    let s1 := updPath p (fun r => { r.emptied with cause := none, score := 0, state := .down, settleTimer := none }) s
    if r.state = .quenched then stopRounds p s1 else s1

/-- A revival (R105), with the release events it gives its dependents (R106). Each takes a path out of QUENCHED, so
four suffice for `n`. -/
def revive : Nat → Path → State → State
  | 0, _, s => s
  | n + 1, p, s =>
      let r := s.path p
      let s1 := raisePath p .state (revivedPath p s)
      let s2 := if r.lineUp then provingCheck p s1 else s1
      if r.state = .quenched then
        forEach (s2.dependents p) (fun q t => if t.autoReady q then revive n q t else t) s2
      else s2

/-- A release event for a path (R106). -/
def releaseEvent (p : Path) (s : State) : State := if s.autoReady p then revive 4 p s else s

/-- A path has left QUENCHED: a release event for each dependent, ascending (R106). -/
def leftQuenched (p : Path) (s : State) : State := forEach (s.dependents p) releaseEvent s

/-- A peer becomes REACHABLE on a path (R118 items 1, 3 and 4). The cue of item 2 is the frame cue of R68, which follows
the frame's own rule (R53): `frameCue` gives it (log entry 9). -/
def becomeReachable (k : Nat) (p : Path) (s : State) : State :=
  let s1 := updLink k p (fun l => { l with reach := .reachable }) s
  let s2 := if (s.path p).state = .quenched then releaseEvent p s1 else s1
  raisePeer k .reachability s2

/-- A frame is heard from a peer on a path (R116 items 1 to 4). -/
def hearPeer (k : Nat) (p : Path) (s : State) : State :=
  let s1 := updLink k p (fun l => { l with heard := true, miss := 0, lastHeard := some s.now }) s
  if s.reachOn k p = .reachable then s1 else becomeReachable k p s1

/-! ## Line transitions (4.3) -/

/-- The line qualifies UP on a DOWN path (R73). -/
def lineUp (p : Path) (s : State) : State :=
  let s1 := updPath p (fun r => { r with state := .proving, settleTimer := some (s.after r.settleTime) }) s
  provingCheck p (raisePath p .state (beginRound p s1))

/-- The line qualifies DOWN on a live path (R74). -/
def lineDown (p : Path) (s : State) : State :=
  let r := s.path p
  let s1 := updPath p (fun r => { r.emptied with state := .down, score := 0, settleTimer := none }) s
  let s2 := stopRounds p s1
  let s3 := if r.state.inService then leaveService p r.class4 s2 else s2
  let s4 := raisePath p .state s3
  if r.state = .proving then raisePath p .falseRevival s4 else s4

/-- A path is drained (R90 items 1 to 5), with the release events of its leaving QUENCHED (R106). -/
def drainPath (p : Path) (s : State) : State :=
  let r := s.path p
  let s1 := updPath p (fun r => { r.emptied with state := .drained, settleTimer := none }) s
  let s2 := stopRounds p s1
  let s3 := if r.state.inService then leaveService p r.class4 s2 else s2
  let s4 := raisePath p .state s3
  if r.state = .quenched then leftQuenched p s4 else s4

end Sys2Proof.Machine
end

