-- ==== Sys2Proof/Machine/Transmit.lean ====
section
/-! DEFINITION. What the part begins by itself once a taking has left something to send: the transmitters' class arbiter
(04.8), the outbound arbiter of the host link (09.4), and the pass that runs both. -/

namespace Sys2Proof.Machine

/-! ## The transmitter (4.8) -/

/-- The classes a path state permits (Table 4-2). -/
def PathState.permits (st : PathState) (cls : Nat) : Bool :=
  if decide (cls = 1) || decide (cls = 3) then st.live || decide (st = .quenched) else st.inService

/-- The frame at the head of the first class, 1 to 4, that has one and that the state permits (R85). -/
def PathRec.nextQueued (r : PathRec) : Option (Nat × QFrame) :=
  match r.class1.head?.filter (fun _ => r.state.permits 1) with
  | some f => some (1, f)
  | none =>
    match r.class2.head?.filter (fun _ => r.state.permits 2) with
    | some f => some (2, f)
    | none =>
      match r.class3.head?.filter (fun _ => r.state.permits 3) with
      | some f => some (3, f)
      | none => (r.class4.head?.filter (fun _ => r.state.permits 4)).map fun f => (4, f)

/-- The head of a class leaves its queue. -/
def PathRec.popClass (r : PathRec) (cls : Nat) : PathRec :=
  match cls with
  | 1 => { r with class1 := r.class1.tail }
  | 2 => { r with class2 := r.class2.tail }
  | 3 => { r with class3 := r.class3.tail }
  | _ => { r with class4 := r.class4.tail }

/-- What a conversation offers the DATA rotation of a path (R32, R87). -/
def State.offer (s : State) (p : Path) (h : Nat) : Option (Conv × JRec) :=
  match s.conv h with
  | none => none
  | some c =>
      if c.state = .carrying && decide (c.active = some p) then c.transmittable.map fun r => (c, r) else none

/-- The first conversation after the rotation point that offers a record (R87). -/
def State.dataTurn (s : State) (p : Path) : Option Nat :=
  (rotated (s.path p).rotation s.handles).find? fun h => (s.offer p h).isSome

/-- The body that is built for a queued frame (R153): the delivered-through of an acknowledgement is read when it is begun
(R63), every other value when the frame was queued. -/
def State.beginBody (s : State) (f : QFrame) : FrameBody :=
  let d := ((f.owner.bind s.conv).map Conv.delivered).getD 0
  match f.body with
  | .ack _ => .ack d
  | .wait _ => .wait d
  | b => b

/-- A queued frame as it is begun: source address, type and source node are read now (R151, R152, R182). -/
def State.begun (s : State) (p : Path) (f : QFrame) : TxFrame where
  etherDst := f.dstAddr
  etherSrc := portAddr p s.stc.nodeId
  etherType := s.stc.frameType
  srcNode := s.stc.nodeId
  dstNode := f.dstNode
  srcHandle := f.srcHandle
  dstHandle := f.dstHandle
  shift := f.shift
  body := s.beginBody f

/-- The payload of a record, read out of its cell (R28). -/
def State.payloadOf (s : State) (r : JRec) : List Byte := (KMap.get? s.rts.cells r.cell).getD []

/-- The ack timer when a record becomes SENT: it starts if it was stopped, and otherwise runs on (R33). -/
def AckTimer.started (t : AckTimer) (expiry : Nat) : AckTimer :=
  match t with
  | .stopped => .ackWait expiry
  | t => t

/-- The DATA frame of a conversation's transmittable record is begun (R33). -/
def beginData (p : Path) (h : Nat) (s : State) : State :=
  match s.offer p h with
  | none => s
  | some (c, r) =>
      match s.frameTo c.peer p (some h) c.peerHandle c.sendShift (.data r.seq r.kind (s.payloadOf r)) (some h) with
      | none => s
      | some f =>
          let tx := s.begun p f
          updPath p (fun x => { x with tx := some tx, rotation := h })
            (setConv h
              { c with
                journal := makeSent r.seq c.sendShift c.journal
                ackTimer := c.ackTimer.started (s.after c.ackInterval) } s)

/-- A free transmitter begins the next eligible frame (R85). -/
def beginPort (p : Path) (s : State) : State :=
  let r := s.path p
  if r.tx.isSome || !s.configured then s
  else
    match r.nextQueued with
    | some (cls, f) =>
        let tx := s.begun p f
        updPath p (fun x => { x.popClass cls with tx := some tx }) s
    | none =>
        if r.state.permits 5 then
          match s.dataTurn p with
          | some h => beginData p h s
          | none => s
        else s

/-- Every free transmitter looks again (R85). -/
def beginAll (s : State) : State := beginPort .p3 (beginPort .p2 (beginPort .p1 (beginPort .p0 s)))

/-! ## The outbound link (9.4) -/

/-- Write the host link unit. -/
def updHlu (f : Hlu → Hlu) (s : State) : State := { s with hlu := f s.hlu }

/-- A record is begun on the outbound link. -/
def beginOut (r : OutRecord) (s : State) : State := updHlu (fun u => { u with out := some r }) s

/-- The DELIVER of the queue's head is begun (R54). -/
def beginDeliver (e : DlqEntry) (s : State) : State :=
  beginOut (.deliver e) { s with dlq := { s.dlq with tx := .head } }

/-- The notice turn is given to an object (R169, R178). -/
def beginNotice (t : NoticeTurn) (s : State) : State := beginOut (.notice (buildNotice t s).1) (buildNotice t s).2

/-- Last shared turn becomes the kind that received a contested turn (R169 item 4). -/
def setShared (k : SharedTurn) (s : State) : State := updHlu (fun u => { u with lastShared := k }) s

/-- The choice of the outbound arbiter on a free link (R169). -/
def chooseOut (s : State) : State :=
  match s.hlu.out with
  | some _ => s
  | none =>
    match s.hlu.replies with
    | r :: rest => beginOut (.reply r) (updHlu (fun u => { u with replies := rest }) s)
    | [] =>
      match s.dlq.entries, s.ntu.firstReady with
      | [], none => s
      | e :: _, none => beginDeliver e s
      | [], some t => beginNotice t s
      | e :: _, some t =>
          match s.hlu.lastShared with
          | .deliver => beginNotice t (setShared .notice s)
          | .notice => beginDeliver e (setShared .deliver s)

/-- What a taking has left to send is begun at its end: the transmitters look again, and a free outbound link takes its
next record (R85, R170). -/
def afterEvent (s : State) : State := chooseOut (beginAll s)

end Sys2Proof.Machine
end

