-- ==== Sys2Proof/Machine/ConvRequests.lean ====
section
/-! DEFINITION. The owning blocks' decisions on SEND and on the requests about conversations (01, 02, 07). Each answers
the state after the taking, the result code, and the octets of its results. -/

namespace Sys2Proof.Machine

/-- What an owning block answers: the state, the result code and the results' octets (R159, R164). -/
structure Answer where
  state : State
  result : Result
  results : List Byte := []

/-- A refusal changes nothing and returns no results. -/
def refuse (s : State) (r : Result) : Answer := { state := s, result := r }

/-! ## SEND (2.3) -/

/-- An accepted SEND (R31): the cell, the record, the next sequence. -/
def acceptSend (h : Nat) (c : Conv) (q : Nat) (kind : RecKind) (payload : List Byte) (cell : Nat) (s : State) : Answer where
  state := setConv h
    { c with
      journal := c.journal ++
        [{ seq := q, kind := kind, length := payload.length, cell := cell, status := .waiting, sentShift := none }]
      nextSeq := if q = Config.maxSeq then none else some (q + 1) } s
  result := .accepted
  results := octetsOf 2 h ++ octetsOf 4 q

/-- SEND (R30, R31). -/
def ownSend (handle kind : Nat) (payload : List Byte) (s : State) : Answer :=
  match s.recordOf handle with
  | none => refuse s .badHandle
  | some c =>
      if decide (c.state = .lapsed) || decide (c.closeStage ≠ .opened) then refuse s .wrongState
      else
        match kindOfCode kind with
        | none => refuse s .badValue
        | some k =>
            if !inRange 1 Config.maxPayload payload.length then refuse s .badValue
            else
              match c.nextSeq with
              | none => refuse s .exhausted
              | some q =>
                  if c.cap ≤ c.journal.length then refuse s .limit
                  else
                    match issueCell payload s with
                    | none => refuse s .full
                    | some (cell, s1) => acceptSend handle c q k payload cell s1

/-! ## OPEN (1.3, 1.4) -/

/-- An open attempt on a usable path: an OPEN frame and the open timer (R7). -/
def openAttempt (h : Nat) (p : Path) (n : Nat) (s : State) : State :=
  match s.conv h with
  | none => s
  | some c =>
      queueOpt (queue2 p) (s.frameTo c.peer p (some h) none 0 .openFrame (some h))
        (setConv h { c with openAttempt := some (p, n), openTimer := some (s.after s.stc.openTimeout) } s)

/-- The attempt schedule goes on with the first attempt of the first usable path of those that remain, or the
conversation lapses (R7). -/
def openFrom (h : Nat) (rest : List Path) (s : State) : State :=
  match s.conv h with
  | none => s
  | some c =>
      match rest.find? (s.usable c.peer) with
      | some p => openAttempt h p 1 s
      | none => lapse h .openFailed s

/-- The fields of a record as R6 fills them. -/
def freshConv (peer : Nat) (role : Role) (prefs : List Path) (cap ack retry holdOff : Nat) : Conv where
  state := .opening
  peer := peer
  peerHandle := none
  role := role
  prefs := prefs
  staged := none
  active := none
  forced := none
  openAttempt := none
  cap := cap
  ackInterval := ack
  retryLimit := retry
  holdOff := holdOff
  nextSeq := some 1
  settled := 0
  sendShift := 1
  retryCount := 0
  received := 0
  delivered := 0
  inShift := 0
  ackPath := none
  closeStage := .opened
  farClosed := false
  hold := none
  holdExpired := false
  lapseReason := none
  parkStart := none
  shiftCount := 0
  journal := []
  ackTimer := .stopped
  waitPause := none
  openTimer := none
  closeTimer := none

/-- The VACANT record of the lowest handle (R4). -/
def State.lowestVacant (s : State) : Option Nat := KMap.lowestFree s.convs Config.conversations

/-- OPEN (R5, R6). -/
def ownOpen (a : OpenArgs) (s : State) : Answer :=
  if !s.configured then refuse s .noStation
  else
    match s.lowestVacant with
    | none => refuse s .noRoom
    | some h =>
      match (if a.slot < Config.peerSlots then s.peer a.slot else none) with
      | none => refuse s .noPeer
      | some _ =>
        match preferenceList a.list with
        | none => refuse s .badList
        | some prefs =>
          if !settingsOk a.cap a.ackInterval a.retryLimit a.holdOff then refuse s .badValue
          else if !prefs.any (s.usable a.slot) then refuse s .noPath
          else
            { state := openFrom h prefs
                (setConv h
                  (freshConv a.slot .opener prefs (a.cap.getD Config.defaultCap)
                    (a.ackInterval.getD Config.defaultAckInterval) (a.retryLimit.getD Config.defaultRetryLimit)
                    (a.holdOff.getD Config.defaultHoldOff)) s)
              result := .accepted
              results := octetsOf 2 h }

/-! ## CLOSE (1.6, 1.7) -/

/-- CLOSE GRACEFUL on a record that is not LAPSED (R16, R17). -/
def closeGracefully (h : Nat) (c : Conv) (s : State) : Answer :=
  if c.closeStage = .opened then
    { state := checkClose h (setConv h { c with closeStage := .draining } s), result := .accepted }
  else refuse s .wrongState

/-- CLOSE ABORT on a record that is not LAPSED (R20). -/
def closeAborting (h : Nat) (c : Conv) (s : State) : Answer :=
  let s1 :=
    match c.peerHandle, c.prefs.find? (s.usable c.peer) with
    | some ph, some p => queueOpt (queue2 p) (s.frameTo c.peer p (some h) (some ph) 0 .abandon none) s
    | _, _ => s
  { state := vacate h s1, result := .done }

/-- CLOSE (R15, R16, R20, R23). -/
def ownClose (handle mode : Nat) (s : State) : Answer :=
  match s.recordOf handle with
  | none => refuse s .badHandle
  | some c =>
      if !inRange 1 2 mode then refuse s .badValue
      else if c.state = .lapsed then { state := vacate handle s, result := .done }
      else if mode = 1 then closeGracefully handle c s
      else closeAborting handle c s

/-! ## HOLD, RELEASE, SHIFT, RESTAGE (07) -/

/-- HOLD (R125). -/
def ownHold (handle duration : Nat) (s : State) : Answer :=
  match s.recordOf handle with
  | none => refuse s .badHandle
  | some c =>
      if c.state = .lapsed then refuse s .wrongState
      else if !inRange 1 60000 duration then refuse s .badValue
      else { state := setConv handle { c with hold := some (s.after duration), holdExpired := false } s, result := .done }

/-- RELEASE (R127). -/
def ownRelease (handle : Nat) (s : State) : Answer :=
  match s.recordOf handle with
  | none => refuse s .badHandle
  | some c =>
      if c.hold.isSome then
        let s1 := setConv handle { c with hold := none } s
        { state := if c.state = .withheld then enterQueue handle s1 else s1, result := .done }
      else if c.holdExpired then refuse s .expired
      else refuse s .notHeld

/-- An accepted SHIFT by state (R149). -/
def forceShift (h : Nat) (c : Conv) (target : Option Path) (s : State) : State :=
  match c.state with
  | .carrying => shiftCause false h (setConv h { c with forced := target } s)
  | .parked => enterQueue h (setConv h { c with forced := target, parkStart := none } s)
  | _ => enterQueue h (setConv h { c with forced := target } s)

/-- An optional target path: absent, or a path number; the outer `none` is a number that is no path. -/
def targetOf : Option Nat → Option (Option Path)
  | none => some none
  | some n => (Path.ofNum n).map some

/-- SHIFT (R149). -/
def ownShift (handle : Nat) (target : Option Nat) (s : State) : Answer :=
  match s.recordOf handle with
  | none => refuse s .badHandle
  | some c =>
      match targetOf target with
      | none => refuse s .badValue
      | some t =>
          match c.state with
          | .shiftQueued => refuse s .busy
          | .shifting => refuse s .busy
          | .opening => refuse s .wrongState
          | .lapsed => refuse s .wrongState
          | _ => { state := forceShift handle c t s, result := .accepted }

/-- RESTAGE (R147). -/
def ownRestage (handle : Nat) (list : List Nat) (s : State) : Answer :=
  match s.recordOf handle with
  | none => refuse s .badHandle
  | some c =>
      if c.state = .lapsed then refuse s .wrongState
      else
        match preferenceList list with
        | none => refuse s .badList
        | some l => { state := quietPoint handle (setConv handle { c with staged := some l } s), result := .done }

/-! ## CLEAR RETURNED (2.9) -/

/-- The RETURNED record of a sequence. -/
def JRec.returnedAs (q : Nat) (r : JRec) : Bool := decide (r.seq = q) && decide (r.status = .returned)

/-- CLEAR RETURNED (R50). -/
def ownClearReturned (handle q : Nat) (s : State) : Answer :=
  match s.recordOf handle with
  | none => refuse s .badHandle
  | some c =>
      if !seqOk q then refuse s .badValue
      else
        match c.journal.find? (JRec.returnedAs q) with
        | none => refuse s .wrongState
        | some r =>
            { state := returnCells [r.cell] (setConv handle { c with journal := c.journal.eraseP (JRec.returnedAs q) } s)
              result := .done }

/-! ## Reading (1.9, 2.10) -/

/-- A count in two octets (Table 8-5). -/
def octetsOfCount (n : Nat) : List Byte := octetsOf 2 n

/-- The number of journal records of a status. -/
def countStatus (st : JStatus) (j : List JRec) : Nat := (j.filter fun r => decide (r.status = st)).length

/-- The number of delivery queue entries of a conversation. -/
def State.deliveriesOf (s : State) (h : Nat) : Nat := (s.dlq.entries.filter fun e => decide (e.handle = h)).length

/-- The ack timer runs. -/
def AckTimer.running : AckTimer → Bool
  | .stopped => false
  | _ => true

/-- The open attempt as its path number and attempt number (R159). -/
def octetsOfAttempt (a : Path × Nat) : List Byte := octetsOfPath a.1 ++ octetsOf 1 a.2

/-- The fields of Table 1-1 in table order, journal and timers excluded (R159). -/
def Conv.fieldOctets (c : Conv) : List Byte :=
  octetsOf 1 (codeOfState (some c.state)) ++ octetsOf 1 c.peer ++ octetsOfOptNum 2 c.peerHandle ++
    octetsOf 1 (codeOfRole c.role) ++ octetsOfPaths c.prefs ++ octetsOfOpt octetsOfPaths c.staged ++
    octetsOfOpt octetsOfPath c.active ++ octetsOfOpt octetsOfPath c.forced ++
    octetsOfOpt octetsOfAttempt c.openAttempt ++ octetsOf 1 c.cap ++ octetsOf 2 c.ackInterval ++
    octetsOf 1 c.retryLimit ++ octetsOf 2 c.holdOff ++ octetsOfNextSeq c.nextSeq ++ octetsOf 4 c.settled ++
    octetsOf 4 c.sendShift ++ octetsOf 1 c.retryCount ++ octetsOf 4 c.received ++ octetsOf 4 c.delivered ++
    octetsOf 4 c.inShift ++ octetsOfOpt octetsOfPath c.ackPath ++ octetsOf 1 (codeOfClose c.closeStage) ++
    octetsOfBool c.farClosed ++ octetsOfOptNum 8 c.hold ++ octetsOfBool c.holdExpired ++
    octetsOfOpt (fun r => octetsOf 1 (codeOfLapse r)) c.lapseReason ++ octetsOfOptNum 8 c.parkStart ++
    octetsOf 2 c.shiftCount

/-- The items of R24 after the fields, the hold standing once among the fields (R159). -/
def State.convItems (s : State) (h : Nat) (c : Conv) : List Byte :=
  octetsOfCount c.journal.length ++ octetsOfCount (countStatus .waiting c.journal) ++
    octetsOfCount (countStatus .sent c.journal) ++ octetsOfCount (countStatus .returned c.journal) ++
    octetsOfCount (countStatus .unsure c.journal) ++ octetsOfBool c.ackTimer.running ++
    octetsOfBool c.waitPause.isSome ++ octetsOfBool c.openTimer.isSome ++ octetsOfBool c.closeTimer.isSome ++
    octetsOfCount (s.deliveriesOf h)

/-- The reply for a VACANT handle: state VACANT, optional fields marked absent, other fields 0 (R159). Each optional
field is one marker octet of 0, each other field zeros of its width. -/
def vacantOctets : List Byte :=
  octetsOf 1 (codeOfState none) ++
    -- peer slot, peer handle, role, preference list, staged list, active path, forced target, open attempt
    List.replicate (1 + 1 + 1 + 1 + 1 + 1 + 1 + 1) 0#8 ++
    -- journal cap, ack interval, retry limit, hold-off, next sequence, settled-through, send shift, retry count
    List.replicate (1 + 2 + 1 + 2 + 4 + 4 + 4 + 1) 0#8 ++
    -- received-through, delivered-through, inbound shift, ack path, close stage, far-end closed
    List.replicate (4 + 4 + 4 + 1 + 1 + 1) 0#8 ++
    -- hold, hold expired mark, lapse reason, park start, shift count
    List.replicate (1 + 1 + 1 + 1 + 2) 0#8 ++
    -- the counts and timers of R24
    List.replicate (5 * 2 + 4 + 2) 0#8

/-- READ CONVERSATION (R24). -/
def ownReadConversation (handle : Nat) (s : State) : Answer :=
  if handle < Config.conversations then
    match s.conv handle with
    | none => { state := s, result := .done, results := vacantOctets }
    | some c => { state := s, result := .done, results := c.fieldOctets ++ s.convItems handle c }
  else refuse s .badHandle

/-- A journal record's summary (R51, R159). -/
def JRec.summary (r : JRec) : List Byte :=
  octetsOf 4 r.seq ++ octetsOf 1 (codeOfKind r.kind) ++ octetsOf 1 (codeOfStatus r.status) ++ octetsOf 2 r.length ++
    octetsOfOptNum 4 r.sentShift

/-- The void sequence of a same-path inquiry in progress. -/
def AckTimer.voidSeq : AckTimer → Option Nat
  | .inquiry _ v _ => some v
  | _ => none

/-- READ JOURNAL (R51). -/
def ownReadJournal (handle : Nat) (s : State) : Answer :=
  match s.recordOf handle with
  | none => refuse s .badHandle
  | some c =>
      { state := s
        result := .done
        results :=
          octetsOf 1 (codeOfState (some c.state)) ++ octetsOfNextSeq c.nextSeq ++ octetsOf 4 c.settled ++
            octetsOf 1 c.retryCount ++ octetsOf 1 (codeOfAckTimer c.ackTimer) ++ octetsOfBool c.waitPause.isSome ++
            octetsOfOptNum 4 c.ackTimer.voidSeq ++ octetsOf 1 c.journal.length ++ c.journal.flatMap JRec.summary }

/-- A SCAN summary (R25, R159). -/
def scanSummary (h : Nat) (c : Conv) : List Byte :=
  octetsOf 2 h ++ octetsOf 1 (codeOfState (some c.state)) ++ octetsOf 1 c.peer ++ octetsOfOpt octetsOfPath c.active ++
    octetsOf 1 (codeOfClose c.closeStage) ++ octetsOfCount c.journal.length ++ octetsOf 2 c.shiftCount ++
    octetsOfOpt (fun r => octetsOf 1 (codeOfLapse r)) c.lapseReason

/-- The handles a SCAN walks, in walk order (R25): from the start up to 255, or down to 0. -/
def scanWalk (start dir : Nat) : List Nat :=
  if dir = 1 then (List.range Config.conversations).filter fun h => decide (start ≤ h)
  else ((List.range Config.conversations).filter fun h => decide (h ≤ start)).reverse

/-- The record is in use and its state is in the filter. -/
def State.scanMatch (s : State) (filter : List Nat) (h : Nat) : Bool :=
  match s.conv h with
  | none => false
  | some c => filter.contains (codeOfState (some c.state))

/-- The continue handle after the last reported one (R25): the next in the direction, unless that was the last. -/
def scanContinue (dir last : Nat) : Option Nat :=
  if dir = 1 then (if last < 255 then some (last + 1) else none) else (if last = 0 then none else some (last - 1))

/-- SCAN (R25). -/
def ownScan (start count dir : Nat) (filter : List Nat) (s : State) : Answer :=
  if !scanOk start count dir filter then refuse s .badValue
  else
    let found := ((scanWalk start dir).filter (s.scanMatch filter)).take count
    let next := if found.length = count then found.getLast?.bind (scanContinue dir) else none
    { state := s
      result := .done
      results :=
        octetsOf 1 found.length ++
          found.flatMap (fun h => ((s.conv h).map (scanSummary h)).getD []) ++ octetsOfOptNum 2 next }

end Sys2Proof.Machine
end

