-- ==== Sys2Proof/Machine/PeerRequests.lean ====
section
/-! DEFINITION. The peer table's decisions on ADD PEER, REMOVE PEER and READ PEER (06.2). -/

namespace Sys2Proof.Machine

/-! ## ADD PEER -/

/-- The node id of an ADD PEER is valid (R110 check 2). -/
def State.nodeFree (s : State) (n : Nat) : Bool :=
  inRange 1 65534 n && decide (n ≠ s.stc.nodeId) &&
    s.peerSlots.all fun k => decide ((s.peer k).map Peer.node ≠ some n)

/-- The paths for which an ADD PEER carries a link address, ascending. -/
def linkedPaths (links : PerPath (Option LinkAddr)) : List Path := Path.all.filter fun p => (links.get p).isSome

/-- The admission list of an ADD PEER (R110 check 3): the one given, or its default; the outer `none` is BAD-LIST. -/
def admissionList (a : AddPeerArgs) : Option (Option (List Path)) :=
  match a.list with
  | some l => (preferenceList l).map some
  | none =>
      match linkedPaths a.links with
      | [] => if a.flag = some 1 then none else some none
      | l => some (some l)

/-- The per-path fields of a new entry (R110). -/
def freshLink (l : Option LinkAddr) : PeerLink where
  link := l
  reach := .unknown
  miss := 0
  heard := false
  lastHeard := none

/-- The entry that an ADD PEER writes (R110). -/
def newPeer (a : AddPeerArgs) (list : Option (List Path)) : Peer where
  node := a.node
  links := a.links.map freshLink
  admission := onOffOr false a.flag
  admitList := list
  cap := a.cap.getD Config.defaultCap
  ackInterval := a.ackInterval.getD Config.defaultAckInterval
  retryLimit := a.retryLimit.getD Config.defaultRetryLimit
  holdOff := a.holdOff.getD Config.defaultHoldOff

/-- Write a peer entry. -/
def setPeer (k : Nat) (e : Peer) (s : State) : State := { s with prt := { s.prt with peers := KMap.set s.prt.peers k e } }

/-- ADD PEER (R110). -/
def ownAddPeer (a : AddPeerArgs) (s : State) : Answer :=
  match KMap.lowestFree s.prt.peers Config.peerSlots with
  | none => refuse s .noRoom
  | some k =>
      if !s.nodeFree a.node then refuse s .badValue
      else
        match admissionList a with
        | none => refuse s .badList
        | some list =>
            if !addPeerValuesOk a then refuse s .badValue
            else { state := setPeer k (newPeer a list) s, result := .done, results := octetsOf 1 k }

/-! ## REMOVE PEER -/

/-- The number of conversations that name a peer slot. -/
def State.convsOfPeer (s : State) (k : Nat) : Nat :=
  (s.handles.filter fun h => decide ((s.conv h).map Conv.peer = some k)).length

/-- The queued PROBE frames for a node leave every port (R111 item 1). -/
def withdrawProbes (node : Nat) (s : State) : State :=
  { s with paths := s.paths.map fun r => { r with class3 := r.class3.filter fun f => decide (f.dstNode ≠ node) } }

/-- The PEER-ALL test of a removal on one path, over the entries that remain (R111 item 2). -/
def removalTest (k : Nat) (e : Peer) (p : Path) (s : State) : State :=
  if (e.links.get p).link.isSome && decide ((e.links.get p).reach ≠ .unreachable) &&
      s.peerAllOver p (s.peerSlots.filter fun j => decide (j ≠ k)) then
    handCondition .peerAll .peerAll p s
  else s

/-- A slot becomes not present (R111 item 3). -/
def erasePeer (k : Nat) (s : State) : State :=
  clearPeerReasons k { s with prt := { s.prt with peers := KMap.erase s.prt.peers k } }

/-- REMOVE PEER (R111). -/
def ownRemovePeer (k : Nat) (s : State) : Answer :=
  if k < Config.peerSlots then
    match s.peer k with
    | none => refuse s .noPeer
    | some e =>
        if s.convsOfPeer k ≠ 0 then refuse s .inUse
        else
          { state := erasePeer k (forEach Path.all (removalTest k e) (withdrawProbes e.node s)), result := .done }
  else refuse s .badHandle

/-! ## READ PEER -/

/-- The per-path fields of an entry on the wire (R159). -/
def PeerLink.octets (l : PeerLink) : List Byte :=
  octetsOfOpt (fun a => octetsOf 6 a.toNat) l.link ++ octetsOf 1 (codeOfReach l.reach) ++ octetsOf 1 l.miss ++
    octetsOfBool l.heard ++ octetsOfOptNum 8 l.lastHeard

/-- READ PEER of a present slot (R112, R159). -/
def State.peerOctets (s : State) (k : Nat) (e : Peer) : List Byte :=
  octetsOfBool true ++ octetsOf 2 e.node ++ e.links.toList.flatMap PeerLink.octets ++ octetsOfBool e.admission ++
    octetsOfOpt octetsOfPaths e.admitList ++ octetsOf 1 e.cap ++ octetsOf 2 e.ackInterval ++
    octetsOf 1 e.retryLimit ++ octetsOf 2 e.holdOff ++ octetsOfCount (s.convsOfPeer k) ++
    s.prt.rounds.toList.flatMap fun t => octetsOfBool t.isSome

/-- READ PEER (R112). -/
def ownReadPeer (k : Nat) (s : State) : Answer :=
  if k < Config.peerSlots then
    match s.peer k with
    | none => { state := s, result := .done, results := octetsOfBool false }
    | some e => { state := s, result := .done, results := s.peerOctets k e }
  else refuse s .badHandle

end Sys2Proof.Machine
end

