-- ==== Sys2Proof/Machine/PathRequests.lean ====
section
/-! DEFINITION. The path ports' and the quench unit's decisions on SET PATH, QUENCH, REVIVE, DRAIN and READ PATH
(04.9, 05). -/

namespace Sys2Proof.Machine

/-- DOWN, QUENCHED or DRAINED: the states in which SET PATH is taken (R89 check 2). -/
def PathState.settable : PathState → Bool
  | .down => true
  | .quenched => true
  | .drained => true
  | _ => false

/-- The settings present are written (R89). -/
def PathRec.withSettings (r : PathRec) (a : SetPathArgs) : PathRec :=
  { r with
    sampleInterval := a.sampleInterval.getD r.sampleInterval
    lineFilter := onOffOr r.lineFilter a.lineFilter
    alarmFilter := onOffOr r.alarmFilter a.alarmFilter
    settleTime := a.settleTime.getD r.settleTime
    probeInterval := a.probeInterval.getD r.probeInterval
    missLimit := a.missLimit.getD r.missLimit
    sources := sourcesOr r.sources a.sources
    companions := companionsOr r.companions a.companions
    autoRevive := onOffOr r.autoRevive a.autoRevive }

/-- SET PATH (R89). -/
def ownSetPath (n : Nat) (a : SetPathArgs) (s : State) : Answer :=
  match Path.ofNum n with
  | none => refuse s .badHandle
  | some p =>
      if !(s.path p).state.settable then refuse s .busy
      else if !setPathOk p a then refuse s .badValue
      else { state := updPath p (fun r => r.withSettings a) s, result := .done }

/-- QUENCH (R101). -/
def ownQuench (n : Nat) (s : State) : Answer :=
  match Path.ofNum n with
  | none => refuse s .badHandle
  | some p =>
      if (s.path p).state.live then { state := quenchPath p .manual s, result := .done } else refuse s .wrongState

/-- QUENCHED or DRAINED: the states a revival leaves (R104). -/
def PathState.revivable : PathState → Bool
  | .quenched => true
  | .drained => true
  | _ => false

/-- REVIVE (R104). -/
def ownRevive (n : Nat) (s : State) : Answer :=
  match Path.ofNum n with
  | none => refuse s .badHandle
  | some p =>
      if !(s.path p).state.revivable then refuse s .wrongState
      else if !s.testPassed p then refuse s .causePresent
      else { state := revive 4 p s, result := if (s.path p).lineUp then .accepted else .done }

/-- DRAIN (R90). -/
def ownDrain (n : Nat) (s : State) : Answer :=
  match Path.ofNum n with
  | none => refuse s .badHandle
  | some p =>
      if (s.path p).state = .drained then refuse s .wrongState else { state := drainPath p s, result := .done }

/-- The settings of a path in the order of Table 4-1. -/
def PathRec.settingOctets (r : PathRec) : List Byte :=
  octetsOf 2 r.sampleInterval ++ octetsOfBool r.lineFilter ++ octetsOfBool r.alarmFilter ++ octetsOf 2 r.settleTime ++
    octetsOf 2 r.probeInterval ++ octetsOf 1 r.missLimit ++ octetsOfList (r.sources.map codeOfSource) ++
    octetsOfPaths r.companions ++ octetsOfBool r.autoRevive

/-- The items of R91 in its order. -/
def State.pathOctets (s : State) (p : Path) : List Byte :=
  let r := s.path p
  octetsOf 1 (codeOfPathState r.state) ++ octetsOf 1 r.score ++ octetsOfCause r.cause ++ octetsOfLine r.lineUp ++
    octetsOf 8 r.lineTime ++ octetsOfAlarm r.alarm ++ octetsOf 8 r.alarmTime ++ r.settingOctets ++
    octetsOfOptNum 8 r.settleTimer ++ octetsOfCount r.class1.length ++ octetsOfCount r.class2.length ++
    octetsOfCount r.class3.length ++ octetsOfCount r.class4.length ++ octetsOfBool r.tx.isSome ++
    octetsOf 2 r.rotation ++ octetsOfCount (s.handles.filter (s.activeOn p)).length

/-- READ PATH (R91). -/
def ownReadPath (n : Nat) (s : State) : Answer :=
  match Path.ofNum n with
  | none => refuse s .badHandle
  | some p => { state := s, result := .done, results := s.pathOctets p }

end Sys2Proof.Machine
end

