-- ==== Sys2Proof/Machine/StationRequests.lean ====
section
/-! DEFINITION. Station Control's, the notice unit's and the host link's own requests: SET STATION, READ STATION,
SET NOTICE MASK and RESTART (10.2, 11). -/

namespace Sys2Proof.Machine

/-- The values present are written (R181). -/
def Stc.withSettings (c : Stc) (a : SetStationArgs) : Stc :=
  { c with
    nodeId := a.node.getD c.nodeId
    frameType := a.frameType.getD c.frameType
    inquiryTimeout := a.inquiryTimeout.getD c.inquiryTimeout
    openTimeout := a.openTimeout.getD c.openTimeout
    parkLimit := a.parkLimit.getD c.parkLimit }

/-- A node id present, other than 0, differs from that of every present peer entry (R181 check 3). -/
def State.stationNodeFree (s : State) : Option Nat → Bool
  | none => true
  | some n => decide (n = 0) || s.peerSlots.all fun k => decide ((s.peer k).map Peer.node ≠ some n)

/-- SET STATION (R181). -/
def ownSetStation (a : SetStationArgs) (s : State) : Answer :=
  if s.handles ≠ [] then refuse s .busy
  else if !setStationOk a then refuse s .badValue
  else if !s.stationNodeFree a.node then refuse s .badValue
  else { state := { s with stc := s.stc.withSettings a }, result := .done }

/-- READ STATION (R183). -/
def ownReadStation (s : State) : Answer where
  state := s
  result := .done
  results :=
    octetsOf 2 s.stc.nodeId ++ octetsOf 2 s.stc.frameType ++ octetsOf 2 s.stc.inquiryTimeout ++
      octetsOf 2 s.stc.openTimeout ++ octetsOf 2 s.stc.parkLimit ++ octetsOfReasons s.ntu.mask ++
      octetsOf 1 (codeOfStart s.ntu.startKind) ++ octetsOf 8 s.stc.time

/-- SET NOTICE MASK (R176). -/
def ownSetNoticeMask (codes : List Nat) (s : State) : Answer :=
  match maskOfCodes codes with
  | none => refuse s .badValue
  | some m => { state := { s with ntu := { s.ntu with mask := m } }, result := .done }

/-- The restart kind of a code (Table 8-6). -/
def restartOfCode : Nat → Option RestartKind
  | 1 => some .cold
  | 2 => some .warm
  | _ => none

/-- RESTART (R185): the restart is pending from here; its effect comes with its reply's completion. -/
def ownRestart (kind : Nat) (s : State) : Answer :=
  match restartOfCode kind with
  | none => refuse s .badValue
  | some k => { state := updHlu (fun u => { u with restart := some k }) s, result := .done }

end Sys2Proof.Machine
end

