-- ==== Sys2Proof/Machine/Restart.lean ====
section
/-! DEFINITION. The effects of power-on and of the cold and warm restarts on every block (R26, R52, R69, R70, R92, R108,
R122, R150, R172, R179, R184, R186). -/

namespace Sys2Proof.Machine

/-- Power-on: every block at its power-on values, with the commands that wait (R184). -/
def poweredOn (s : State) : State := { State.reset with pending := s.pending }

/-- The body is an OPEN-REPLY. -/
def FrameBody.isOpenReply : FrameBody → Bool
  | .openReply _ => true
  | _ => false

/-- The transmit queues and the frame in transmission of a path across a restart: a port that is free empties its queues;
a port with a frame in transmission keeps it, gives up what R69, R70 and R122 withdraw at once, and empties the rest
at the completion (R88, R186). -/
def PathRec.restarted (old new : PathRec) : PathRec :=
  match old.tx with
  | none => { new.emptied with tx := none, flush := false }
  | some f =>
      { new with
        class1 := old.class1.filter fun g => g.body.isOpenReply
        class2 := old.class2
        class3 := []
        class4 := []
        tx := some f
        flush := true }

/-- A path after a cold restart at a station time (R92, R108). -/
def PathRec.cold (t : Nat) (r : PathRec) : PathRec := r.restarted (PathRec.atStart t)

/-- A path after a warm restart at a station time: settings kept (R92, R108). -/
def PathRec.warm (t : Nat) (r : PathRec) : PathRec :=
  r.restarted
    { PathRec.atStart t with
      sampleInterval := r.sampleInterval
      lineFilter := r.lineFilter
      alarmFilter := r.alarmFilter
      settleTime := r.settleTime
      probeInterval := r.probeInterval
      missLimit := r.missLimit
      sources := r.sources
      companions := r.companions
      autoRevive := r.autoRevive }

/-- The state of a record after a warm restart (R26). -/
def ConvState.warm : ConvState → ConvState
  | .opening => .lapsed
  | .lapsed => .lapsed
  | _ => .parked

/-- The park start after a warm restart (R26). -/
def Conv.warmParkStart (t : Nat) (c : Conv) : Option Nat :=
  match c.state with
  | .opening => none
  | .lapsed => c.parkStart
  | .parked => c.parkStart
  | _ => some t

/-- An in-use record after a warm restart at a station time (R26, R52, R70). -/
def Conv.warm (t : Nat) (c : Conv) : Conv :=
  { c with
    state := c.state.warm
    parkStart := c.warmParkStart t
    lapseReason := if c.state = .opening then some .restartInOpening else c.lapseReason
    journal := if c.state = .opening then makeUnsure c.journal else c.journal
    active := none
    forced := none
    openAttempt := none
    ackPath := none
    hold := none
    holdExpired := false
    ackTimer := .stopped
    waitPause := none
    openTimer := none
    closeTimer := none
    retryCount := 0
    received := c.delivered
    closeStage := if c.closeStage = .closeSent then .draining else c.closeStage }

/-- The per-path fields of an entry after a warm restart (R122). -/
def PeerLink.warm (l : PeerLink) : PeerLink := { l with reach := .unknown, miss := 0, heard := false }

/-- A peer entry after a warm restart (R122). -/
def Peer.warm (e : Peer) : Peer := { e with links := e.links.map PeerLink.warm }

/-- The cold restart takes effect (R186). -/
def coldRestart (s : State) : State :=
  { State.reset with
    pending := s.pending
    stc := Stc.atStart s.now
    paths := s.paths.map (PathRec.cold s.now)
    ntu := Ntu.atStart .cold Reason.defaultMask }

/-- The warm restart takes effect (R186). -/
def warmRestart (s : State) : State :=
  { State.reset with
    pending := s.pending
    stc := s.stc
    convs := KMap.mapVals (Conv.warm s.now) s.convs
    rts := s.rts
    paths := s.paths.map (PathRec.warm s.now)
    prt := { peers := KMap.mapVals Peer.warm s.prt.peers, rounds := PerPath.all none }
    ntu := Ntu.atStart .warm s.ntu.mask }

/-- A restart of a kind takes effect. -/
def restartEffect (k : RestartKind) (s : State) : State :=
  match k with
  | .cold => coldRestart s
  | .warm => warmRestart s

end Sys2Proof.Machine
end

