-- ==== Sys2Proof/Machine/Link.lean ====
section
/-! DEFINITION. The host link unit: the accept line, the parser, the intake of records with their replies, and the
completions of outbound records (08.6, 09). -/

namespace Sys2Proof.Machine

/-! ## Takings (9.2) -/

/-- The accept line HRXACC is HIGH (R162, R184). -/
def State.acceptHigh (s : State) : Bool :=
  !s.inReset && decide (s.hlu.input.length < Config.inputEntries) && decide (s.hlu.restart = none)

/-- The three conditions of a taking (R164). -/
def State.canTake (s : State) : Bool :=
  decide (s.hlu.input ≠ []) && decide (s.hlu.replies.length < Config.replyEntries) && decide (s.hlu.restart = none)

/-- The owner of a decoded request decides it (Table 9-4). -/
def ownRequest (r : Request) (s : State) : Answer :=
  match r with
  | .openConv a => ownOpen a s
  | .close h m => ownClose h m s
  | .hold h d => ownHold h d s
  | .release h => ownRelease h s
  | .shift h t => ownShift h t s
  | .restage h l => ownRestage h l s
  | .clearReturned h q => ownClearReturned h q s
  | .readConversation h => ownReadConversation h s
  | .readJournal h => ownReadJournal h s
  | .scan st n d f => ownScan st n d f s
  | .addPeer a => ownAddPeer a s
  | .removePeer k => ownRemovePeer k s
  | .readPeer k => ownReadPeer k s
  | .setPath p a => ownSetPath p a s
  | .quench p => ownQuench p s
  | .revive p => ownRevive p s
  | .drain p => ownDrain p s
  | .readPath p => ownReadPath p s
  | .setStation a => ownSetStation a s
  | .readStation => ownReadStation s
  | .setNoticeMask r => ownSetNoticeMask r s
  | .restart k => ownRestart k s

/-- A reply joins the tail of the reply queue (R164). -/
def pushReply (r : Reply) (s : State) : State := updHlu (fun u => { u with replies := u.replies ++ [r] }) s

/-- The answer of an owner becomes the reply, with the record's tag and the echoed code (R159, R164). -/
def answerWith (tag code : Nat) (a : Answer) : State :=
  pushReply { tag := tag, code := code, result := a.result, results := a.results } a.state

/-- A reply without results that no owner gave. -/
def replyOnly (tag code : Nat) (r : Result) (s : State) : State := answerWith tag code (refuse s r)

/-- The deciding of one entry (R164). -/
def decideTaking (t : Taking) (s : State) : State :=
  match t with
  | .bad => replyOnly 0 0 .badRecord s
  | .unknown tag code => replyOnly tag code .unknownRequest s
  | .malformed tag code => replyOnly tag code .badValue s
  | .send tag h k _ payload => answerWith tag sendCode (ownSend h k payload s)
  | .request tag r => answerWith tag r.code (ownRequest r s)

/-- The entry at the head of the input buffer is taken (R164). -/
def takeHead (s : State) : State :=
  match s.hlu.input with
  | [] => s
  | e :: rest => decideTaking (decodeEntry e) (updHlu (fun u => { u with input := rest }) s)

/-- Takings follow one another while the three conditions hold, at most `n` times (R164). -/
def intake : Nat → State → State
  | 0, s => s
  | n + 1, s => if s.canTake then intake n (afterEvent (takeHead s)) else s

/-- Every taking that the conditions allow: each removes one entry, so the length of the buffer bounds them. -/
def intakeAll (s : State) : State := intake s.hlu.input.length s

/-- An entry joins the tail of the input buffer, and is taken when the conditions hold (R163, R164). -/
def endRecord (e : RecordEnd) (s : State) : State :=
  intakeAll (updHlu (fun u => { u with input := u.input ++ [e] }) s)

/-- A record ends on the inbound link, all its octets having arrived; with the accept line LOW they are lost (R162). -/
def hostRecord (e : RecordEnd) (s : State) : State :=
  if s.acceptHigh then endRecord e (updHlu (fun u => { u with parser := .hunting }) s) else s

/-! ## The parser (8.6) -/

/-- The entry of a record whose last check octet has been taken (R156): the length field's value and the octets from the
kind to the check. -/
def recordOfOctets (len : Nat) (kept : List Byte) : RecordEnd :=
  let content := kept.take len
  if kept.drop len = checkOctets (octetsOf 2 len ++ content) then
    match content with
    | k :: tag :: body =>
        if k = 1#8 then .request tag.toNat body else if k = 2#8 then .send tag.toNat body else .bad
    | _ => .bad
  else .bad

/-- The parser takes one octet (R156): its new state, and what it hands over if a record ends here. -/
def parseOctet (o : Byte) : Parser → Parser × Option RecordEnd
  | .hunting => if o = Config.startOctet then (.length none, none) else (.hunting, none)
  | .length none => (.length (some o), none)
  | .length (some f) =>
      let len := f.toNat * 256 + o.toNat
      if inRange 2 1024 len then (.content len [], none) else (.hunting, some .bad)
  | .content len kept =>
      let all := kept ++ [o]
      if all.length < len + 2 then (.content len all, none) else (.hunting, some (recordOfOctets len all))

/-- An octet arrives on the inbound link (R156, R162). -/
def octetArrived (o : Byte) (s : State) : State :=
  if s.acceptHigh then
    let t := updHlu (fun u => { u with parser := (parseOctet o u.parser).1 }) s
    match (parseOctet o s.hlu.parser).2 with
    | none => afterEvent t
    | some e => endRecord e t
  else s

/-! ## Completions (9.5, 3.4) -/

/-- Outbound in transmission becomes none. -/
def endOut (s : State) : State := updHlu (fun u => { u with out := none }) s

/-- The reply is the reply to an accepted RESTART: while a restart is pending nothing was taken after it, so the only
reply with its code and DONE is its own. -/
def Reply.isRestart (r : Reply) : Bool := decide (r.code = 22) && decide (r.result = .done)

/-- A REPLY has left the link: a pending restart takes effect at the completion of its own reply (R171). -/
def replyLeft (r : Reply) (s : State) : State :=
  match s.hlu.restart with
  | none => endOut s
  | some k => if r.isRestart then restartEffect k (endOut s) else endOut s

/-- The delivered-through of the entry's conversation advances and an ACK is requested (R60 items 2 and 3). -/
def deliveredTo (e : DlqEntry) (s : State) : State :=
  requestAck e.handle false none (updConv e.handle (fun c => { c with delivered := e.seq }) s)

/-- A DELIVER has left the link (R60, R61). -/
def deliverLeft (s : State) : State :=
  match s.dlq.tx, s.dlq.entries with
  | .head, e :: rest => deliveredTo e { s with dlq := { entries := rest, tx := .none } }
  | _, _ => { s with dlq := { s.dlq with tx := .none } }

/-- The end of a completion: the next record is chosen, and the intake goes on if there is room again (R168, R171). -/
def afterCompletion (s : State) : State := intakeAll (afterEvent s)

/-- The completion of a REPLY (R171). -/
def replyDone (s : State) : State :=
  match s.hlu.out with
  | some (.reply r) => afterCompletion (replyLeft r s)
  | _ => s

/-- The completion of a DELIVER (R171). -/
def deliverDone (s : State) : State :=
  match s.hlu.out with
  | some (.deliver _) => afterCompletion (deliverLeft (endOut s))
  | _ => s

/-- The completion of a NOTICE (R171). -/
def noticeDone (s : State) : State :=
  match s.hlu.out with
  | some (.notice _) => afterCompletion (endOut s)
  | _ => s

end Sys2Proof.Machine
end

