-- ==== Sys2Proof/Machine/Settling.lean ====
section
/-! DEFINITION. What inbound frames do to the journal: settling, WAIT pauses, and the answers to inquiries (02.5 to 02.8,
07.7). -/

namespace Sys2Proof.Machine

/-- The settle credit of R36 item 6, handed to a path for an ACK or WAIT; an ANSWER has had its own (R78). -/
def settleCredit (credit : Option Path) (s : State) : State :=
  match credit with
  | none => s
  | some p => lowerScore p s

/-- WAITING and SENT records up to `d`, but the excepted one, leave the journal and return their cells, and
settled-through becomes `d` (R36 items 1 and 2). R27 names no order among cells that return together: they go in journal
order (DESIGN CHOICE, log entry 34). -/
def settleJournal (h d : Nat) (except : Option Nat) (s : State) : State :=
  match s.conv h with
  | none => s
  | some c =>
      returnCells ((c.journal.filter (JRec.covered d except)).map JRec.cell)
        (setConv h { c with journal := c.journal.filter (fun r => !r.covered d except), settled := d } s)

/-- The ack timer after a settle advance (R36 item 4). -/
def Conv.timerAfterSettle (c : Conv) (expiry : Nat) : AckTimer :=
  if hasSent c.journal then
    (if c.state = .carrying && c.waitPause.isNone then .ackWait expiry else c.ackTimer)
  else .stopped

/-- A settle advance (R36), with the checks that follow it. -/
def settleAdvance (h d : Nat) (credit : Option Path) (s : State) : State :=
  let s1 := settleJournal h d none s
  let s2 := updConv h
    (fun c => { c with retryCount := 0, ackTimer := c.timerAfterSettle (s.after c.ackInterval) }) s1
  afterChecks h (settleCredit credit (raiseConv h .settled s2))

/-- The delivered-through of an ACK or WAIT settles, is stale, or is discarded (R35). -/
def settleOn (h d : Nat) (credit : Option Path) (s : State) : State :=
  match s.conv h with
  | none => s
  | some c => if decide (c.settled < d) && decide (d ≤ c.highest) then settleAdvance h d credit s else s

/-- The WAIT pause of a CARRYING conversation starts, or starts again (R40). -/
def startPause (h : Nat) (s : State) : State :=
  match s.conv h with
  | none => s
  | some c =>
      if c.state = .carrying then
        setConv h { c with ackTimer := .stopped, waitPause := some (s.after c.ackInterval) } s
      else s

/-- A bound ACK (R35). -/
def takeAck (h d : Nat) (p : Path) (s : State) : State := settleOn h d (some p) s

/-- A bound WAIT (R40). -/
def takeWait (h d : Nat) (p : Path) (s : State) : State := startPause h (settleOn h d (some p) s)

/-! ## Answers to a same-path inquiry (2.8) -/

/-- The ANSWER matches the same-path inquiry in progress (R44). -/
def Conv.answerMatches (c : Conv) (shift : Nat) (void : Option Nat) (d : Nat) : Bool :=
  match c.ackTimer with
  | .inquiry _ v _ => decide (shift = c.sendShift) && decide (void = some v) && decide (d ≤ c.highest)
  | _ => false

/-- The record of a void sequence becomes RETURNED, settled-through the greater, RETURNED raised (R45, R47, R139). -/
def voidRecord (h v : Nat) (s : State) : State :=
  raiseConv h .returned
    (updConv h (fun c => { c with journal := makeReturned v c.journal, settled := max c.settled v }) s)

/-- A VOIDED answer to the same-path inquiry (R45). -/
def inquiryVoided (h v d : Nat) (c : Conv) (s : State) : State :=
  let s1 := if c.settled < d then settleJournal h d (some v) s else s
  let s2 := updConv h (fun c => { c with retryCount := 0, ackTimer := .stopped }) (voidRecord h v s1)
  afterChecks h (raiseConv h .settled s2)

/-- An ORDINARY or IN-DELIVERY answer to the same-path inquiry (R45): the inquiry ends, records up to `d` settle by R36,
and the ack timer runs in ACK-WAIT while a record stays SENT. -/
def inquiryKept (h d : Nat) (c : Conv) (s : State) : State :=
  let s1 := updConv h
    (fun c =>
      { c with retryCount := 0
               ackTimer := if hasSent c.journal then .ackWait (s.after c.ackInterval) else .stopped }) s
  if c.settled < d then settleAdvance h d none s1 else s1

/-- The void sequence of the inquiry in progress, whose answer has matched it. -/
def applyInquiryAnswer (h : Nat) (c : Conv) (out : AnswerOutcome) (d : Nat) (s : State) : State :=
  match c.ackTimer, out with
  | .inquiry _ v _, .voided => inquiryVoided h v d c s
  | .inquiry _ _ _, .ordinary => inquiryKept h d c s
  | .inquiry _ _ _, .inDelivery => inquiryKept h d c s
  | _, _ => s

/-! ## Answers to a shift (7.7) -/

/-- The slot of a handle. -/
def State.slotOf (s : State) (h : Nat) : Option (Nat × Slot) := s.she.slots.find? fun e => decide (e.2.handle = h)

/-- The ANSWER matches the slot (R138). -/
def Slot.answerMatches (sl : Slot) (c : Conv) (p : Path) (shift : Nat) (void : Option Nat) (d : Nat) : Bool :=
  decide (sl.phase = .inquiring) && decide (sl.candidate = some p) && decide (shift = sl.newShift) &&
    decide (void = sl.void) && decide (d ≤ c.highest)

/-- Step 1 of R139: the settle, SETTLED raised; an ANSWER has had its credit at reception. -/
def shiftSettle (h d : Nat) (except : Option Nat) (s : State) : State :=
  match s.conv h with
  | none => s
  | some c => if c.settled < d then raiseConv h .settled (settleJournal h d except s) else s

/-- Step 2 of R139: a VOIDED outcome on a record that stands SENT. -/
def shiftVoid (h : Nat) (void : Option Nat) (out : AnswerOutcome) (s : State) : State :=
  match s.conv h, void, out with
  | some c, some v, .voided =>
      if c.journal.any (fun r => r.isSent && decide (r.seq = v)) then voidRecord h v s else s
  | _, _, _ => s

/-- Steps 3 and 4 of R139: replay and carry. -/
def Conv.carried (c : Conv) (p : Path) : Conv :=
  { c with
    journal := goBack c.journal
    active := some p
    state := .carrying
    retryCount := 0
    forced := none
    shiftCount := min Config.maxShiftCount (c.shiftCount + 1) }

/-- The excepted sequence of a settle: the void sequence when the outcome is VOIDED (R139 step 1). -/
def voidExcept (void : Option Nat) (out : AnswerOutcome) : Option Nat :=
  match out with
  | .voided => void
  | _ => none

/-- The ack timer of a conversation back in CARRYING (R141). -/
def startCarrying (h : Nat) (s : State) : State :=
  match s.conv h with
  | none => s
  | some c => if hasSent c.journal then setConv h { c with ackTimer := .ackWait (s.after c.ackInterval) } s else s

/-- A matching ANSWER ends the shift (R139), and the checks of R141 follow. -/
def applyShiftAnswer (h k : Nat) (sl : Slot) (p : Path) (out : AnswerOutcome) (d : Nat) (s : State) : State :=
  let s1 := shiftVoid h sl.void out (shiftSettle h d (voidExcept sl.void out) s)
  let s2 := updConv h (fun c => c.carried p) s1
  let s3 := raiseConv h .shifted (grantAll (freeSlot k s2))
  afterChecks h (startCarrying h s3)

/-- A bound ANSWER that is not NOT-KNOWN, for the conversation's state (R44, R138). -/
def applyAnswer (h : Nat) (c : Conv) (p : Path) (shift : Nat) (out : AnswerOutcome) (void : Option Nat) (d : Nat)
    (s : State) : State :=
  match c.state with
  | .carrying => if c.answerMatches shift void d then applyInquiryAnswer h c out d s else s
  | .shifting =>
      match s.slotOf h with
      | none => s
      | some (k, sl) => if sl.answerMatches c p shift void d then applyShiftAnswer h k sl p out d s else s
  | _ => s

/-- A bound ANSWER (R44, R46, R138, R140). -/
def takeAnswer (h : Nat) (p : Path) (shift : Nat) (out : AnswerOutcome) (void : Option Nat) (d : Nat) (s : State) :
    State :=
  match s.conv h with
  | none => s
  | some c => if out = .notKnown then lapse h .notKnown s else applyAnswer h c p shift out void d s

end Sys2Proof.Machine
end

