-- ==== Sys2Proof/Machine/Inbound.lean ====
section
/-! DEFINITION. Frame reception: the port's checks, hearing, binding, opening, DATA, INQUIRY, CLOSE and ABANDON, and the
frame cue (01.4 to 01.7, 03, 04.7, 06.4, 06.5). -/

namespace Sys2Proof.Machine

/-! ## Senders and binding -/

/-- The present entry of a node with a link address on a path (R53, R116). -/
def State.senderOn (s : State) (p : Path) (node : Nat) : Option Nat :=
  s.peerSlots.find? fun k => decide ((s.peer k).map Peer.node = some node) && s.hasLink p k

/-- The record in use that a frame of a peer slot is bound to (R2). -/
def State.bound (s : State) (k : Nat) (f : RxFrame) : Option (Nat × Conv) :=
  match f.dstHandle with
  | none => none
  | some h =>
      match s.conv h with
      | none => none
      | some c =>
          if decide (c.state = .lapsed) || decide (c.peer ≠ k) then none
          else if decide (c.state = .opening) then some (h, c)
          else if f.srcHandle.isSome && decide (f.srcHandle = c.peerHandle) then some (h, c)
          else none

/-- An answer frame joins class 1 of the arrival path, addressed to the sender. -/
def answerFrame (p : Path) (k : Nat) (src dst : Option Nat) (shift : Nat) (body : FrameBody) (owner : Option Nat)
    (s : State) : State :=
  queueOpt (queue1 p) (s.frameTo k p src dst shift body owner) s

/-! ## Opening (1.4, 1.5) -/

/-- Another record that holds a peer handle of a peer slot (R9). -/
def State.holdsPeerHandle (s : State) (k ph h j : Nat) : Bool :=
  match s.conv j with
  | none => false
  | some c => decide (j ≠ h) && decide (c.peer = k) && decide (c.peerHandle = some ph)

/-- The old record of a reused peer handle loses it and lapses (R9). -/
def displaceOne (j : Nat) (s : State) : State := lapse j .notKnown (updConv j (fun c => { c with peerHandle := none }) s)

/-- Displacement before a peer handle is recorded for record `h` (R9). -/
def displace (k ph h : Nat) (s : State) : State := forEach (s.handles.filter (s.holdsPeerHandle k ph h)) displaceOne s

/-- An accepted OPEN-REPLY taken by an OPENING record on a path (R8). -/
def acceptOpening (h : Nat) (c : Conv) (ph : Nat) (p : Path) (s : State) : State :=
  let s1 := updConv h (fun c => { c with peerHandle := some ph, openTimer := none, openAttempt := none })
    (displace c.peer ph h s)
  if s1.usable c.peer p && c.prefs.contains p then
    afterChecks h (raiseConv h .opened (updConv h (fun c => { c with active := some p, state := .carrying }) s1))
  else raiseConv h .opened (park h s1)

/-- The implicit acceptance of R10. -/
def implicitAccept (h : Nat) (c : Conv) (src : Option Nat) (p : Path) (s : State) : State :=
  match src with
  | some ph => if c.state = .opening then acceptOpening h c ph p s else s
  | none => s

/-- An OPEN-REPLY (R8). -/
def takeOpenReply (p : Path) (k : Nat) (f : RxFrame) (accepted : Bool) (s : State) : State :=
  match s.bound k f with
  | some (h, c) =>
      if c.state = .opening then
        match accepted, f.srcHandle with
        | true, some ph => acceptOpening h c ph p s
        | _, _ => lapse h .openRefused s
      else s
  | none =>
      if accepted && s.serving p then
        queueOpt (queue2 p) (s.frameTo k p f.dstHandle f.srcHandle 0 .abandon none) s
      else s

/-- A live ACCEPTOR record of a peer slot with a peer handle (R12 item 1). -/
def State.isRepeat (s : State) (k ph h : Nat) : Bool :=
  match s.conv h with
  | none => false
  | some c =>
      decide (c.peer = k) && decide (c.role = .acceptor) && decide (c.state ≠ .lapsed) &&
        decide (c.peerHandle = some ph)

/-- The record of an admitted conversation (R14). -/
def admitted (k : Nat) (e : Peer) (ph : Nat) : Conv :=
  { freshConv k .acceptor (e.admitList.getD []) e.cap e.ackInterval e.retryLimit e.holdOff with peerHandle := some ph }

/-- Admission of an inbound OPEN (R14). -/
def admitConv (h k : Nat) (e : Peer) (ph : Nat) (p : Path) (s : State) : State :=
  let s1 := raiseConv h .openedByPeer (setConv h (admitted k e ph) (displace k ph h s))
  let s2 := answerFrame p k (some h) (some ph) 0 (.openReply true) (some h) s1
  if s2.usable k p && (e.admitList.getD []).contains p then
    updConv h (fun c => { c with active := some p, state := .carrying }) s2
  else park h s2

/-- An OPEN from a present entry with a link address on the path (R12). -/
def takeOpen (p : Path) (k : Nat) (ph : Nat) (s : State) : State :=
  match s.peer k with
  | none => s
  | some e =>
      match s.handles.find? (s.isRepeat k ph) with
      | some h => answerFrame p k (some h) (some ph) 0 (.openReply true) (some h) s
      | none =>
          match (if e.admission then s.lowestVacant else none) with
          | none => answerFrame p k none (some ph) 0 (.openReply false) none s
          | some h => admitConv h k e ph p s

/-! ## DATA, INQUIRY, CLOSE, CLOSE-REPLY, ABANDON -/

/-- A DATA frame that passes all checks (R59). -/
def acceptData (h : Nat) (c : Conv) (p : Path) (seq : Nat) (kind : RecKind) (payload : List Byte) (s : State) : State :=
  setConv h { c with received := c.received + 1, ackPath := some p }
    { s with dlq := { s.dlq with entries := s.dlq.entries ++
        [{ handle := h, seq := seq, kind := kind, length := payload.length, payload := payload }] } }

/-- A bound DATA frame (R56 to R59). -/
def takeData (h : Nat) (p : Path) (shift seq : Nat) (kind : RecKind) (payload : List Byte) (s : State) : State :=
  match s.conv h with
  | none => s
  | some c =>
      if shift < c.inShift then s
      else
        let c1 : Conv := { c with inShift := shift }
        let s1 := setConv h c1 s
        if seq = c.received + 1 then
          if s.dlq.entries.length < Config.deliveryEntries then acceptData h c1 p seq kind payload s1
          else requestAck h true (some p) s1
        else requestAck h false (some p) s1

/-- The outcome of an INQUIRY and the counters after it (Table 3-4). -/
def voidDecision (void : Option Nat) (r d : Nat) : AnswerOutcome × Nat × Nat :=
  match void with
  | none => (.ordinary, r, d)
  | some v =>
      if v ≤ d then (.ordinary, r, d)
      else if v ≤ r then (.inDelivery, r, d)
      else if r + 1 = v then (if d + 1 = v then (.voided, v, v) else (.inDelivery, r, d))
      else (.notKnown, r, d)

/-- A bound INQUIRY (R64): its ANSWER carries the delivered-through as it stands after the decision, whatever the outcome;
the 0 of R153 is that of R65's NOT-KNOWN answer (log entry 13). -/
def takeInquiry (h : Nat) (p : Path) (shift : Nat) (void : Option Nat) (s : State) : State :=
  match s.conv h with
  | none => s
  | some c =>
      let res := voidDecision void c.received c.delivered
      let s1 := setConv h { c with inShift := max c.inShift shift, received := res.2.1, delivered := res.2.2 } s
      answerFrame p c.peer (some h) c.peerHandle shift (.answer res.1 void res.2.2) none s1

/-- The record becomes VACANT when both directions are closed (R19). -/
def closeCompletion (h : Nat) (s : State) : State :=
  match s.conv h with
  | none => s
  | some c => if decide (c.closeStage = .closedOut) && c.farClosed then vacate h s else s

/-- A bound CLOSE (R67). -/
def takeClose (h : Nat) (p : Path) (final : Nat) (s : State) : State :=
  match s.conv h with
  | none => s
  | some c =>
      if c.delivered = final then
        let s1 := answerFrame p c.peer (some h) c.peerHandle 0 (.closeReply final) none s
        let s2 :=
          if c.farClosed then s1
          else raiseConv h .farClosed (updConv h (fun c => { c with farClosed := true }) s1)
        closeCompletion h s2
      else s

/-- The close stage takes a CLOSE-REPLY (R18). -/
def Conv.awaitsCloseReply (c : Conv) : Bool :=
  match c.closeStage with
  | .closeSent => true
  | .draining => !hasSent c.journal && !hasWaiting c.journal
  | _ => false

/-- A bound CLOSE-REPLY (R18, R19). -/
def takeCloseReply (h final : Nat) (s : State) : State :=
  match s.conv h with
  | none => s
  | some c =>
      if c.awaitsCloseReply && decide (final = c.highest) then
        closeCompletion h (setConv h { c with closeTimer := none, closeStage := .closedOut, retryCount := 0 } s)
      else s

/-- An ABANDON bound to a record with a peer handle (R20). -/
def takeAbandon (h : Nat) (c : Conv) (s : State) : State := if c.peerHandle.isSome then lapse h .abandoned s else s

/-- A frame that is bound to no record (R19, R65); its NOT-KNOWN answer carries delivered-through 0 (R65, R153). -/
def takeUnbound (p : Path) (k : Nat) (f : RxFrame) (s : State) : State :=
  match f.body with
  | .data _ _ _ => answerFrame p k f.dstHandle f.srcHandle f.shift (.answer .notKnown none 0) none s
  | .inquiry v => answerFrame p k f.dstHandle f.srcHandle f.shift (.answer .notKnown v 0) none s
  | .close final => answerFrame p k f.dstHandle f.srcHandle 0 (.closeReply final) none s
  | _ => s

/-- A WAIT bound to a record that stood in a state before R10: one that was OPENING settles and starts no pause (R40). -/
def takeWaitFrom (was : ConvState) (h d : Nat) (p : Path) (s : State) : State :=
  if was = .opening then takeAck h d p s else takeWait h d p s

/-- The own rule of a bound frame, against the record in its state after R10; `was` is its state before. -/
def boundRule (was : ConvState) (h : Nat) (p : Path) (f : RxFrame) (s : State) : State :=
  match f.body with
  | .data q kind pl => takeData h p f.shift q kind pl s
  | .ack d => takeAck h d p s
  | .wait d => takeWaitFrom was h d p s
  | .inquiry v => takeInquiry h p f.shift v s
  | .answer out v d => takeAnswer h p f.shift out v d s
  | .close final => takeClose h p final s
  | .closeReply final => takeCloseReply h final s
  | _ => s

/-- A frame that names a destination handle, OPEN-REPLY apart: binding, implicit acceptance, own rule (R2, R10, R53). -/
def takeAddressed (p : Path) (k : Nat) (f : RxFrame) (s : State) : State :=
  match s.bound k f with
  | none => takeUnbound p k f s
  | some (h, c) =>
      match f.body with
      | .abandon => takeAbandon h c s
      | _ => boundRule c.state h p f (implicitAccept h c f.srcHandle p s)

/-- The rule of a conversation frame's kind. -/
def conversationRule (p : Path) (k : Nat) (f : RxFrame) (s : State) : State :=
  match f.body with
  | .openFrame =>
      match f.srcHandle with
      | some ph => takeOpen p k ph s
      | none => s
  | .openReply a => takeOpenReply p k f a s
  | _ => takeAddressed p k f s

/-! ## Reception (4.7) -/

/-- A frame is heard from its sender, if it names one (R116). -/
def hear (p : Path) (sender : Option Nat) (s : State) : State :=
  match sender with
  | none => s
  | some k => hearPeer k p s

/-- The path hands frames to the peer table: PROVING, SOUND, SUSPECT or QUENCHED (R84). -/
def PathState.hears (st : PathState) : Bool := st.live || decide (st = .quenched)

/-- A PROBE draws an ECHO in class 1 of its path (R120). -/
def echo (p : Path) (sender : Option Nat) (s : State) : State :=
  match sender with
  | none => s
  | some k => if (s.path p).state.hears then answerFrame p k none none 0 .echo none s else s

/-- The frame's cue to the PARKED conversations of its sender (R68). -/
def frameCue (p : Path) (sender : Option Nat) (s : State) : State :=
  match sender with
  | none => s
  | some k => cueAll (some k) p s

/-- The conversation table takes a frame of a sender it knows on the path (R53), then cues (R68). -/
def takeAtTable (p : Path) (sender : Option Nat) (f : RxFrame) (s : State) : State :=
  match sender with
  | none => s
  | some k => conversationRule p k f s

/-- An ANSWER handed to the conversation table lowers the score by 1 (R84). -/
def answerCredit (p : Path) (f : RxFrame) (s : State) : State :=
  match f.body with
  | .answer _ _ _ => lowerScore p s
  | _ => s

/-- A frame taken on a live path (R84). -/
def takeLive (p : Path) (f : RxFrame) (s : State) : State :=
  let sender := s.senderOn p f.srcNode
  let s1 := hear p sender s
  match f.body with
  | .probe => frameCue p sender (echo p sender s1)
  | .echo => frameCue p sender s1
  | _ => frameCue p sender (takeAtTable p sender f (answerCredit p f s1))

/-- A frame taken on a QUENCHED path (R84). -/
def takeQuenched (p : Path) (f : RxFrame) (s : State) : State :=
  let sender := s.senderOn p f.srcNode
  let s1 := hear p sender s
  match f.body with
  | .probe => echo p sender s1
  | _ => s1

/-- A frame that has passed the checks of R83 is taken by the path's state (R84). -/
def takeFrame (p : Path) (f : RxFrame) (s : State) : State :=
  match (s.path p).state with
  | .down => s
  | .drained => s
  | .quenched => takeQuenched p f s
  | _ => takeLive p f s

/-- Checks 2 to 4 of R83 on a frame's fields, after the MAC's address filter (R151) and check 1. -/
def checkAndTake (p : Path) (head : RxHead) (body : RxBody) (s : State) : State :=
  if decide (s.stc.frameType = 0) || decide (head.etherType ≠ s.stc.frameType) then s
  else
    match formatCheck head body with
    | none => addScore p 4 s
    | some f =>
        if decide (s.stc.nodeId = 0) || decide (head.dstNode ≠ s.stc.nodeId) then s else takeFrame p f s

/-- A frame with a right FCS reaches a port (R83, R151). -/
def receive (p : Path) (head : RxHead) (body : RxBody) (s : State) : State :=
  if head.etherDst = portAddr p s.stc.nodeId then checkAndTake p head body s else s

/-- A frame given by its octets reaches a port (R83, R151, R154). -/
def receiveOctets (p : Path) (l : List Byte) (s : State) : State :=
  if etherDstOfOctets l ≠ portAddr p s.stc.nodeId then s
  else if !fcsOk l then addScore p 4 s
  else if decide (s.stc.frameType = 0) || decide (typeOfOctets l ≠ s.stc.frameType) then s
  else
    match fieldsOfOctets l with
    | none => addScore p 4 s
    | some (head, body) => checkAndTake p head body s

end Sys2Proof.Machine
end

