-- ==== Sys2Proof/Machine/Timers.lean ====
section
/-! DEFINITION. Timer expiries, samples of the pins, and completions of frames.  A command that names a timer that does
not run, or a port with nothing in transmission, names nothing in progress and changes nothing. -/

namespace Sys2Proof.Machine

/-! ## Conversation timers (01, 02) -/

/-- The INQUIRY of the same-path inquiry is queued on the active path (R42, R43). -/
def queueInquiry (h : Nat) (c : Conv) (p : Path) (v : Nat) (s : State) : State :=
  queueOpt (queue2 p) (s.frameTo c.peer p (some h) c.peerHandle c.sendShift (.inquiry (some v)) (some h)) s

/-- The go-back of a retransmission round (R38), with the quiet point it reaches (R148). -/
def goBackRound (h : Nat) (c : Conv) (s : State) : State :=
  quietPoint h (setConv h { c with journal := goBack c.journal, ackTimer := .stopped } s)

/-- A same-path inquiry begins (R42). -/
def beginInquiry (h : Nat) (c : Conv) (p : Path) (v : Nat) (s : State) : State :=
  queueInquiry h c p v (setConv h { c with ackTimer := .inquiry 1 v (s.after s.stc.inquiryTimeout) } s)

/-- What a retransmission round does after its score and count, if the conversation still stands on its path (R38). -/
def roundAction (h : Nat) (s : State) : State :=
  match s.conv h with
  | none => s
  | some c =>
      match c.active, oldestSent c.journal with
      | some p, some r =>
          match r.kind with
          | .ordinary => goBackRound h c s
          | .singleShot => beginInquiry h c p r.seq s
      | _, _ => s

/-- An increment on the active path of a conversation (Table 4-3). -/
def scoreActive (c : Conv) (n : Nat) (s : State) : State :=
  match c.active with
  | none => s
  | some p => addScore p n s

/-- An increment of 16 and of the retry count (R17, R38). -/
def countRound (h : Nat) (c : Conv) (s : State) : State :=
  updConv h (fun c => { c with retryCount := c.retryCount + 1 }) (scoreActive c 16 s)

/-- The ack timer expires in ACK-WAIT (R38, R39). -/
def ackExpired (h : Nat) (c : Conv) (s : State) : State :=
  if c.retryCount < c.retryLimit then roundAction h (countRound h c s) else shiftCause true h s

/-- ACK TIMER EXPIRY. -/
def ackTimerEnds (h : Nat) (s : State) : State :=
  match s.conv h with
  | none => s
  | some c =>
      match c.ackTimer with
      | .ackWait e => ackExpired h c (advanceTo e s)
      | _ => s

/-- An unanswered attempt of a same-path inquiry, if the inquiry still runs after its score (R43). -/
def inquiryAction (h a v e : Nat) (s : State) : State :=
  match s.conv h with
  | none => s
  | some c =>
      match c.active with
      | none => s
      | some p =>
          if c.ackTimer = .inquiry a v e then
            if a < 3 then
              queueInquiry h c p v
                (setConv h { c with ackTimer := .inquiry (a + 1) v (s.after s.stc.inquiryTimeout) } s)
            else shiftCause true h s
          else s

/-- INQUIRY TIMER EXPIRY (R43). -/
def inquiryTimerEnds (h : Nat) (s : State) : State :=
  match s.conv h with
  | none => s
  | some c =>
      match c.ackTimer with
      | .inquiry a v e => inquiryAction h a v e (scoreActive c 16 (advanceTo e s))
      | _ => s

/-- The journal and timers after a WAIT pause (R41). -/
def Conv.resumed (c : Conv) (expiry : Nat) : Conv :=
  { c with
    journal := goBack c.journal
    waitPause := none
    ackTimer := if hasSent (goBack c.journal) then .ackWait expiry else .stopped }

/-- WAIT PAUSE EXPIRY (R41), with the quiet point it may reach (R148). -/
def waitPauseEnds (h : Nat) (s : State) : State :=
  match s.conv h with
  | none => s
  | some c =>
      match c.waitPause with
      | none => s
      | some e =>
          let s1 := advanceTo e s
          quietPoint h (setConv h (c.resumed (s1.after c.ackInterval)) s1)

/-- The paths of a list after a path. -/
def pathsAfter (l : List Path) (p : Path) : List Path := (l.dropWhile fun q => decide (q ≠ p)).tail

/-- The next attempt of the schedule after an attempt (R7). -/
def nextAttempt (h : Nat) (c : Conv) (p : Path) (n : Nat) (s : State) : State :=
  if decide (n = 1) && s.usable c.peer p then openAttempt h p 2 s else openFrom h (pathsAfter c.prefs p) s

/-- OPEN TIMER EXPIRY (R7). -/
def openTimerEnds (h : Nat) (s : State) : State :=
  match s.conv h with
  | none => s
  | some c =>
      match c.openTimer, c.openAttempt with
      | some e, some (p, n) => nextAttempt h c p n (advanceTo e s)
      | _, _ => s

/-- The CLOSE frame goes out again, if the close timer still runs after the score (R17). -/
def closeAction (h : Nat) (s : State) : State :=
  match s.conv h with
  | none => s
  | some c =>
      match c.active, c.closeTimer with
      | some p, some _ =>
          queueOpt (queue2 p) (s.frameTo c.peer p (some h) c.peerHandle 0 (.close c.highest) (some h))
            (setConv h { c with closeTimer := some (s.after c.ackInterval) } s)
      | _, _ => s

/-- CLOSE TIMER EXPIRY (R17). -/
def closeTimerEnds (h : Nat) (s : State) : State :=
  match s.conv h with
  | none => s
  | some c =>
      match c.closeTimer with
      | none => s
      | some e =>
          let s1 := advanceTo e s
          if c.retryCount < c.retryLimit then closeAction h (countRound h c s1) else shiftCause true h s1

/-! ## Hold, park and slot timers (07) -/

/-- HOLD EXPIRY (R128). -/
def holdEnds (h : Nat) (s : State) : State :=
  match s.conv h with
  | none => s
  | some c =>
      match c.hold with
      | none => s
      | some e =>
          let s1 := raiseConv h .holdExpired (setConv h { c with hold := none, holdExpired := true } (advanceTo e s))
          if c.state = .withheld then enterQueue h s1 else s1

/-- PARK EXPIRY (R146): the park start plus the park limit, in seconds. -/
def parkEnds (h : Nat) (s : State) : State :=
  match s.conv h with
  | none => s
  | some c =>
      match c.parkStart with
      | none => s
      | some t =>
          if decide (c.state = .parked) && decide (s.stc.parkLimit ≠ 0) then
            lapse h .parkExpired (advanceTo (t + s.stc.parkLimit * 1000000) s)
          else s

/-- HOLD-OFF EXPIRY of a slot (R133). -/
def holdOffEnds (k : Nat) (s : State) : State :=
  match s.slot k with
  | none => s
  | some sl =>
      match sl.phase, sl.timer with
      | .holdOff, some e => choose k (advanceTo e s)
      | _, _ => s

/-- The candidate is given up after its third attempt (R136). -/
def giveUp (k : Nat) (sl : Slot) (p : Path) (s : State) : State :=
  let s1 := setSlot k
    { sl with tried := insertIn Path.all p sl.tried, candidate := none, attempt := none, timer := none } s
  let s2 := match s1.conv sl.handle with
    | none => s1
    | some c => markPeer c.peer p s1
  choose k s2

/-- The attempt is repeated (R136). -/
def repeatAttempt (k : Nat) (sl : Slot) (p : Path) (a : Nat) (s : State) : State :=
  let sl' : Slot := { sl with attempt := some (a + 1), timer := some (s.after s.stc.inquiryTimeout) }
  match s.conv sl.handle with
  | none => s
  | some c => queueSlotInquiry sl' c p (setSlot k sl' s)

/-- What an unanswered attempt does after its score, if the slot still stands as it did (R136). -/
def slotAction (k : Nat) (sl : Slot) (p : Path) (a : Nat) (s : State) : State :=
  if s.slot k = some sl then (if a < 3 then repeatAttempt k sl p a s else giveUp k sl p s) else s

/-- SLOT INQUIRY EXPIRY (R136). -/
def slotInquiryEnds (k : Nat) (s : State) : State :=
  match s.slot k with
  | none => s
  | some sl =>
      match sl.phase, sl.candidate, sl.attempt, sl.timer with
      | .inquiring, some p, some a, some e => slotAction k sl p a (addScore p 16 (advanceTo e s))
      | _, _, _, _ => s

/-! ## Paths (04, 05, 06) -/

/-- PROBE ROUND (R114, R115). -/
def probeRoundEnds (p : Path) (s : State) : State :=
  match s.prt.rounds.get p with
  | none => s
  | some e => beginRound p (closeRound p (advanceTo e s))

/-- Some peer is REACHABLE on a path. -/
def State.anyReachable (s : State) (p : Path) : Bool :=
  s.peerSlots.any fun k => decide (s.reachOn k p = .reachable)

/-- A PROVING path becomes SOUND (R76, R77). -/
def becomeSound (p : Path) (s : State) : State :=
  cueAll none p (raisePath p .state (updPath p (fun r => { r with state := .sound, score := 0, settleTimer := none }) s))

/-- SETTLE EXPIRY (R76). -/
def settleEnds (p : Path) (s : State) : State :=
  match (s.path p).settleTimer with
  | none => s
  | some e =>
      let s1 := advanceTo e s
      if s1.anyReachable p then becomeSound p s1
      else updPath p (fun r => { r with settleTimer := some (s1.after r.settleTime) }) s1

/-- The count of agreeing samples that qualifies (R72, R94). -/
def required (filter : Bool) : Nat := if filter then 4 else 1

/-- The station time at which a sample is taken: one interval after the last one, or now if that has passed (R72). -/
def State.sampleAt (s : State) (last interval : Nat) : Nat := max s.now (last + interval)

/-- The qualified line transition (R73 to R75). -/
def lineQualified (p : Path) (high : Bool) (s : State) : State :=
  let s1 := raisePath p .line s
  if high then (if (s.path p).state = .down then lineUp p s1 else s1)
  else if (s.path p).state.live then lineDown p s1 else s1

/-- LINE SAMPLE (R72). -/
def lineSampled (p : Path) (high : Bool) (s : State) : State :=
  let r := s.path p
  let t := s.sampleAt r.lineSampled r.sampleInterval
  let first := r.lineRunTime.getD t
  let s0 := advanceTo t s
  if high = r.lineUp then updPath p (fun r => { r with lineSampled := t, lineRun := 0, lineRunTime := none }) s0
  else if r.lineRun + 1 < required r.lineFilter then
    updPath p (fun r => { r with lineSampled := t, lineRun := r.lineRun + 1, lineRunTime := some first }) s0
  else
    lineQualified p high
      (updPath p
        (fun r => { r with lineSampled := t, lineUp := high, lineTime := first, lineRun := 0, lineRunTime := none }) s0)

/-- The qualified alarm transition (R95). -/
def alarmQualified (p : Path) (active : Bool) (s : State) : State :=
  let s1 := raisePath p .alarm s
  if active then handCondition .plane .plane p s1 else releaseEvent p s1

/-- ALARM SAMPLE (R94): a low pin reads ACTIVE. -/
def alarmSampled (p : Path) (low : Bool) (s : State) : State :=
  let r := s.path p
  let t := s.sampleAt r.alarmSampled r.sampleInterval
  let first := r.alarmRunTime.getD t
  let s0 := advanceTo t s
  if low = r.alarm then updPath p (fun r => { r with alarmSampled := t, alarmRun := 0, alarmRunTime := none }) s0
  else if r.alarmRun + 1 < required r.alarmFilter then
    updPath p (fun r => { r with alarmSampled := t, alarmRun := r.alarmRun + 1, alarmRunTime := some first }) s0
  else
    alarmQualified p low
      (updPath p
        (fun r => { r with alarmSampled := t, alarm := low, alarmTime := first, alarmRun := 0, alarmRunTime := none })
        s0)

/-- FRAME COMPLETION (R85): the transmitter is free and looks again; the completion of a frame that was leaving when a
restart took effect empties the queues and begins nothing (R88, R92, R186). -/
def frameLeft (p : Path) (s : State) : State :=
  let r := s.path p
  if r.tx.isNone then s
  else if r.flush then chooseOut (updPath p (fun r => { r.emptied with tx := none, flush := false }) s)
  else afterEvent (updPath p (fun r => { r with tx := none }) s)

end Sys2Proof.Machine
end

