-- ==== Sys2Proof/Machine/HostCommands.lean ====
section
/-! DEFINITION. The meanings of the host link's commands: records that end on the link, octets, and completions of
outbound records.  A record's octets are decoded as R158 gives, whichever command brings them. -/

namespace Sys2Proof.Machine

/-- HOST RECORD END: the parser hands over an entry (R163). -/
def execHostRecordEnd (e : RecordEnd) (s : State) : Host.Outcome State Fault Refusal := .next (hostRecord e s)

/-- BAD RECORD: a record bad for its length, check or kind ends on the link (R156, R163). -/
def execBadRecord (s : State) : Host.Outcome State Fault Refusal := .next (hostRecord .bad s)

/-- UNKNOWN REQUEST: a REQUEST with a code outside Table 8-6 (R158). -/
def execUnknownRequest (tag code : Nat) (params : List Byte) (s : State) : Host.Outcome State Fault Refusal :=
  .next (hostRecord (.request tag (octetsOf 1 code ++ params)) s)

/-- SEND (R30, R31). -/
def execSend (tag handle kind length : Nat) (payload : List Byte) (s : State) : Host.Outcome State Fault Refusal :=
  .next (hostRecord (.send tag (sendBody handle kind length payload)) s)

/-- OPEN (R5 to R7). -/
def execOpenConv (tag : Nat) (a : OpenArgs) (s : State) : Host.Outcome State Fault Refusal :=
  .next (hostRecord (.request tag (Request.body (.openConv a))) s)

/-- CLOSE of mode GRACEFUL (R15 to R17, R23). -/
def execCloseGraceful (tag handle : Nat) (s : State) : Host.Outcome State Fault Refusal :=
  .next (hostRecord (.request tag (Request.body (.close handle 1))) s)

/-- CLOSE of mode ABORT (R15, R20, R23). -/
def execCloseAbort (tag handle : Nat) (s : State) : Host.Outcome State Fault Refusal :=
  .next (hostRecord (.request tag (Request.body (.close handle 2))) s)

/-- HOLD (R125). -/
def execHold (tag handle duration : Nat) (s : State) : Host.Outcome State Fault Refusal :=
  .next (hostRecord (.request tag (Request.body (.hold handle duration))) s)

/-- RELEASE (R127). -/
def execRelease (tag handle : Nat) (s : State) : Host.Outcome State Fault Refusal :=
  .next (hostRecord (.request tag (Request.body (.release handle))) s)

/-- SHIFT (R149). -/
def execShift (tag handle : Nat) (target : Option Nat) (s : State) : Host.Outcome State Fault Refusal :=
  .next (hostRecord (.request tag (Request.body (.shift handle target))) s)

/-- RESTAGE (R147, R148). -/
def execRestage (tag handle : Nat) (list : List Nat) (s : State) : Host.Outcome State Fault Refusal :=
  .next (hostRecord (.request tag (Request.body (.restage handle list))) s)

/-- CLEAR RETURNED (R50). -/
def execClearReturned (tag handle seq : Nat) (s : State) : Host.Outcome State Fault Refusal :=
  .next (hostRecord (.request tag (Request.body (.clearReturned handle seq))) s)

/-- READ CONVERSATION (R24). -/
def execReadConversation (tag handle : Nat) (s : State) : Host.Outcome State Fault Refusal :=
  .next (hostRecord (.request tag (Request.body (.readConversation handle))) s)

/-- READ JOURNAL (R51). -/
def execReadJournal (tag handle : Nat) (s : State) : Host.Outcome State Fault Refusal :=
  .next (hostRecord (.request tag (Request.body (.readJournal handle))) s)

/-- SCAN (R25). -/
def execScan (tag start count direction : Nat) (filter : List Nat) (s : State) : Host.Outcome State Fault Refusal :=
  .next (hostRecord (.request tag (Request.body (.scan start count direction filter))) s)

/-- ADD PEER (R110). -/
def execAddPeer (tag : Nat) (a : AddPeerArgs) (s : State) : Host.Outcome State Fault Refusal :=
  .next (hostRecord (.request tag (Request.body (.addPeer a))) s)

/-- REMOVE PEER (R111). -/
def execRemovePeer (tag slot : Nat) (s : State) : Host.Outcome State Fault Refusal :=
  .next (hostRecord (.request tag (Request.body (.removePeer slot))) s)

/-- READ PEER (R112). -/
def execReadPeer (tag slot : Nat) (s : State) : Host.Outcome State Fault Refusal :=
  .next (hostRecord (.request tag (Request.body (.readPeer slot))) s)

/-- SET PATH (R89, R107). -/
def execSetPath (tag path : Nat) (a : SetPathArgs) (s : State) : Host.Outcome State Fault Refusal :=
  .next (hostRecord (.request tag (Request.body (.setPath path a))) s)

/-- QUENCH (R101). -/
def execQuench (tag path : Nat) (s : State) : Host.Outcome State Fault Refusal :=
  .next (hostRecord (.request tag (Request.body (.quench path))) s)

/-- REVIVE (R104). -/
def execRevive (tag path : Nat) (s : State) : Host.Outcome State Fault Refusal :=
  .next (hostRecord (.request tag (Request.body (.revive path))) s)

/-- DRAIN (R90). -/
def execDrain (tag path : Nat) (s : State) : Host.Outcome State Fault Refusal :=
  .next (hostRecord (.request tag (Request.body (.drain path))) s)

/-- READ PATH (R91). -/
def execReadPath (tag path : Nat) (s : State) : Host.Outcome State Fault Refusal :=
  .next (hostRecord (.request tag (Request.body (.readPath path))) s)

/-- SET STATION (R181). -/
def execSetStation (tag : Nat) (a : SetStationArgs) (s : State) : Host.Outcome State Fault Refusal :=
  .next (hostRecord (.request tag (Request.body (.setStation a))) s)

/-- READ STATION (R183). -/
def execReadStation (tag : Nat) (s : State) : Host.Outcome State Fault Refusal :=
  .next (hostRecord (.request tag (Request.body (.readStation))) s)

/-- SET NOTICE MASK (R176). -/
def execSetNoticeMask (tag : Nat) (reasons : List Nat) (s : State) : Host.Outcome State Fault Refusal :=
  .next (hostRecord (.request tag (Request.body (.setNoticeMask reasons))) s)

/-- RESTART of kind COLD (R165, R185). -/
def execRestartCold (tag : Nat) (s : State) : Host.Outcome State Fault Refusal :=
  .next (hostRecord (.request tag (Request.body (.restart 1))) s)

/-- RESTART of kind WARM (R165, R185). -/
def execRestartWarm (tag : Nat) (s : State) : Host.Outcome State Fault Refusal :=
  .next (hostRecord (.request tag (Request.body (.restart 2))) s)

/-- REPLY COMPLETION (R171, R172, R186). -/
def execReplyCompletion (s : State) : Host.Outcome State Fault Refusal := .next (replyDone s)

/-- DELIVER COMPLETION (R60, R61, R171). -/
def execDeliverCompletion (s : State) : Host.Outcome State Fault Refusal := .next (deliverDone s)

/-- NOTICE COMPLETION (R171). -/
def execNoticeCompletion (s : State) : Host.Outcome State Fault Refusal := .next (noticeDone s)

/-- OCTET ARRIVAL (R156, R162). -/
def execOctetArrival (o : Byte) (s : State) : Host.Outcome State Fault Refusal := .next (octetArrived o s)

/-- EMPTY REQUEST BODY: a REQUEST whose body is empty (R158). -/
def execEmptyRequestBody (tag : Nat) (s : State) : Host.Outcome State Fault Refusal :=
  .next (hostRecord (.request tag []) s)

end Sys2Proof.Machine
end

