-- ==== Sys2Proof/Machine/FrameCommands.lean ====
section
/-! DEFINITION. The meanings of the path ports' frame commands: frames that arrive, and completions of frames that
leave. -/

namespace Sys2Proof.Machine

/-- An event that is no completion and no record: nothing while RSTN is low (R184), else its taking and what it leaves to
send. -/
def event (f : State → State) (s : State) : State := if s.inReset then s else afterEvent (f s)

/-- DATA received (R56 to R59, R65). -/
def execDataReceived (p : Path) (h : RxHead) (seq kind : Nat) (payload : List Byte) (s : State) :
    Host.Outcome State Fault Refusal :=
  .next (event (receive p h (.data seq kind payload)) s)

/-- ACK received (R35, R36). -/
def execAckReceived (p : Path) (h : RxHead) (delivered : Nat) (s : State) : Host.Outcome State Fault Refusal :=
  .next (event (receive p h (.ack delivered)) s)

/-- WAIT received (R40). -/
def execWaitReceived (p : Path) (h : RxHead) (delivered : Nat) (s : State) : Host.Outcome State Fault Refusal :=
  .next (event (receive p h (.wait delivered)) s)

/-- INQUIRY received (R64, R65). -/
def execInquiryReceived (p : Path) (h : RxHead) (void : Option Nat) (s : State) : Host.Outcome State Fault Refusal :=
  .next (event (receive p h (.inquiry void)) s)

/-- ANSWER received (R44 to R46, R138 to R141). -/
def execAnswerReceived (p : Path) (h : RxHead) (outcome : Nat) (void : Option Nat) (delivered : Nat) (s : State) :
    Host.Outcome State Fault Refusal :=
  .next (event (receive p h (.answer outcome void delivered)) s)

/-- OPEN received (R12 to R14). -/
def execOpenReceived (p : Path) (h : RxHead) (s : State) : Host.Outcome State Fault Refusal :=
  .next (event (receive p h (.openFrame)) s)

/-- OPEN-REPLY received (R8, R9). -/
def execOpenReplyReceived (p : Path) (h : RxHead) (outcome : Nat) (s : State) : Host.Outcome State Fault Refusal :=
  .next (event (receive p h (.openReply outcome)) s)

/-- CLOSE received (R19, R67). -/
def execCloseReceived (p : Path) (h : RxHead) (final : Nat) (s : State) : Host.Outcome State Fault Refusal :=
  .next (event (receive p h (.close final)) s)

/-- CLOSE-REPLY received (R18, R19). -/
def execCloseReplyReceived (p : Path) (h : RxHead) (final : Nat) (s : State) : Host.Outcome State Fault Refusal :=
  .next (event (receive p h (.closeReply final)) s)

/-- ABANDON received (R20). -/
def execAbandonReceived (p : Path) (h : RxHead) (s : State) : Host.Outcome State Fault Refusal :=
  .next (event (receive p h (.abandon)) s)

/-- PROBE received (R116, R120). -/
def execProbeReceived (p : Path) (h : RxHead) (s : State) : Host.Outcome State Fault Refusal :=
  .next (event (receive p h (.probe)) s)

/-- ECHO received (R116, R120). -/
def execEchoReceived (p : Path) (h : RxHead) (s : State) : Host.Outcome State Fault Refusal :=
  .next (event (receive p h (.echo)) s)

/-- FRAME CHECK FAILURE: a frame given by its octets; one that fails no check is taken as what it is (R83, R154). -/
def execFrameCheckFailure (p : Path) (octets : List Byte) (s : State) : Host.Outcome State Fault Refusal :=
  .next (event (receiveOctets p octets) s)

/-- FRAME COMPLETION (R85, R88, R186). -/
def execFrameCompletion (p : Path) (s : State) : Host.Outcome State Fault Refusal := .next (frameLeft p s)

end Sys2Proof.Machine
end

