-- ==== Sys2Proof/Machine/TimerCommands.lean ====
section
/-! DEFINITION. The meanings of the commands of the pins and of the timers. -/

namespace Sys2Proof.Machine

/-- POWER ON: RSTN rises (R173, R184). The first notice is begun at the next step. -/
def execPowerOn (s : State) : Host.Outcome State Fault Refusal := .next (poweredOn s)

/-- RESET ASSERT: RSTN falls, and every block is held at its power-on values (R184). -/
def execResetAssert (s : State) : Host.Outcome State Fault Refusal := .next { poweredOn s with inReset := true }

/-- LINE SAMPLE (R72 to R75). -/
def execLineSample (p : Path) (high : Bool) (s : State) : Host.Outcome State Fault Refusal :=
  .next (event (lineSampled p high) s)

/-- ALARM SAMPLE (R94, R95). -/
def execAlarmSample (p : Path) (low : Bool) (s : State) : Host.Outcome State Fault Refusal :=
  .next (event (alarmSampled p low) s)

/-- SETTLE EXPIRY (R76, R77). -/
def execSettleExpiry (p : Path) (s : State) : Host.Outcome State Fault Refusal := .next (event (settleEnds p) s)

/-- ACK TIMER EXPIRY (R38, R39, R42). -/
def execAckTimerExpiry (handle : Nat) (s : State) : Host.Outcome State Fault Refusal :=
  .next (event (ackTimerEnds handle) s)

/-- INQUIRY TIMER EXPIRY (R43). -/
def execInquiryTimerExpiry (handle : Nat) (s : State) : Host.Outcome State Fault Refusal :=
  .next (event (inquiryTimerEnds handle) s)

/-- WAIT PAUSE EXPIRY (R41). -/
def execWaitPauseExpiry (handle : Nat) (s : State) : Host.Outcome State Fault Refusal :=
  .next (event (waitPauseEnds handle) s)

/-- OPEN TIMER EXPIRY (R7). -/
def execOpenTimerExpiry (handle : Nat) (s : State) : Host.Outcome State Fault Refusal :=
  .next (event (openTimerEnds handle) s)

/-- CLOSE TIMER EXPIRY (R17). -/
def execCloseTimerExpiry (handle : Nat) (s : State) : Host.Outcome State Fault Refusal :=
  .next (event (closeTimerEnds handle) s)

/-- HOLD EXPIRY (R128). -/
def execHoldExpiry (handle : Nat) (s : State) : Host.Outcome State Fault Refusal := .next (event (holdEnds handle) s)

/-- PARK EXPIRY (R146). -/
def execParkExpiry (handle : Nat) (s : State) : Host.Outcome State Fault Refusal := .next (event (parkEnds handle) s)

/-- HOLD-OFF EXPIRY (R133). -/
def execHoldOffExpiry (slot : Nat) (s : State) : Host.Outcome State Fault Refusal :=
  .next (event (holdOffEnds slot) s)

/-- SLOT INQUIRY EXPIRY (R136). -/
def execSlotInquiryExpiry (slot : Nat) (s : State) : Host.Outcome State Fault Refusal :=
  .next (event (slotInquiryEnds slot) s)

/-- PROBE ROUND (R114, R115). -/
def execProbeRound (p : Path) (s : State) : Host.Outcome State Fault Refusal := .next (event (probeRoundEnds p) s)

end Sys2Proof.Machine
end

