-- ==== Sys2Proof/Machine/Dispatch.lean ====
section
/-! DEFINITION. One arm per command. -/

namespace Sys2Proof.Machine

/-- The effect of a command on everything but the queue. -/
def exec (i : Instr) (s : State) : Host.Outcome State Fault Refusal :=
  match i with
  | .powerOn => Sys2Proof.Machine.execPowerOn s
  | .resetAssert => Sys2Proof.Machine.execResetAssert s
  | .hostRecordEnd e => Sys2Proof.Machine.execHostRecordEnd e s
  | .badRecord => Sys2Proof.Machine.execBadRecord s
  | .unknownRequest tag code params => Sys2Proof.Machine.execUnknownRequest tag code params s
  | .send tag handle kind length payload => Sys2Proof.Machine.execSend tag handle kind length payload s
  | .openConv tag a => Sys2Proof.Machine.execOpenConv tag a s
  | .closeGraceful tag handle => Sys2Proof.Machine.execCloseGraceful tag handle s
  | .closeAbort tag handle => Sys2Proof.Machine.execCloseAbort tag handle s
  | .hold tag handle duration => Sys2Proof.Machine.execHold tag handle duration s
  | .release tag handle => Sys2Proof.Machine.execRelease tag handle s
  | .shift tag handle target => Sys2Proof.Machine.execShift tag handle target s
  | .restage tag handle list => Sys2Proof.Machine.execRestage tag handle list s
  | .clearReturned tag handle seq => Sys2Proof.Machine.execClearReturned tag handle seq s
  | .readConversation tag handle => Sys2Proof.Machine.execReadConversation tag handle s
  | .readJournal tag handle => Sys2Proof.Machine.execReadJournal tag handle s
  | .scan tag start count direction filter => Sys2Proof.Machine.execScan tag start count direction filter s
  | .addPeer tag a => Sys2Proof.Machine.execAddPeer tag a s
  | .removePeer tag slot => Sys2Proof.Machine.execRemovePeer tag slot s
  | .readPeer tag slot => Sys2Proof.Machine.execReadPeer tag slot s
  | .setPath tag path a => Sys2Proof.Machine.execSetPath tag path a s
  | .quench tag path => Sys2Proof.Machine.execQuench tag path s
  | .revive tag path => Sys2Proof.Machine.execRevive tag path s
  | .drain tag path => Sys2Proof.Machine.execDrain tag path s
  | .readPath tag path => Sys2Proof.Machine.execReadPath tag path s
  | .setStation tag a => Sys2Proof.Machine.execSetStation tag a s
  | .readStation tag => Sys2Proof.Machine.execReadStation tag s
  | .setNoticeMask tag reasons => Sys2Proof.Machine.execSetNoticeMask tag reasons s
  | .restartCold tag => Sys2Proof.Machine.execRestartCold tag s
  | .restartWarm tag => Sys2Proof.Machine.execRestartWarm tag s
  | .replyCompletion => Sys2Proof.Machine.execReplyCompletion s
  | .deliverCompletion => Sys2Proof.Machine.execDeliverCompletion s
  | .noticeCompletion => Sys2Proof.Machine.execNoticeCompletion s
  | .lineSample p high => Sys2Proof.Machine.execLineSample p high s
  | .alarmSample p low => Sys2Proof.Machine.execAlarmSample p low s
  | .settleExpiry p => Sys2Proof.Machine.execSettleExpiry p s
  | .frameCompletion p => Sys2Proof.Machine.execFrameCompletion p s
  | .dataReceived p h seq kind payload => Sys2Proof.Machine.execDataReceived p h seq kind payload s
  | .ackReceived p h delivered => Sys2Proof.Machine.execAckReceived p h delivered s
  | .waitReceived p h delivered => Sys2Proof.Machine.execWaitReceived p h delivered s
  | .inquiryReceived p h void => Sys2Proof.Machine.execInquiryReceived p h void s
  | .answerReceived p h outcome void delivered => Sys2Proof.Machine.execAnswerReceived p h outcome void delivered s
  | .openReceived p h => Sys2Proof.Machine.execOpenReceived p h s
  | .openReplyReceived p h outcome => Sys2Proof.Machine.execOpenReplyReceived p h outcome s
  | .closeReceived p h final => Sys2Proof.Machine.execCloseReceived p h final s
  | .closeReplyReceived p h final => Sys2Proof.Machine.execCloseReplyReceived p h final s
  | .abandonReceived p h => Sys2Proof.Machine.execAbandonReceived p h s
  | .probeReceived p h => Sys2Proof.Machine.execProbeReceived p h s
  | .echoReceived p h => Sys2Proof.Machine.execEchoReceived p h s
  | .ackTimerExpiry handle => Sys2Proof.Machine.execAckTimerExpiry handle s
  | .inquiryTimerExpiry handle => Sys2Proof.Machine.execInquiryTimerExpiry handle s
  | .waitPauseExpiry handle => Sys2Proof.Machine.execWaitPauseExpiry handle s
  | .openTimerExpiry handle => Sys2Proof.Machine.execOpenTimerExpiry handle s
  | .closeTimerExpiry handle => Sys2Proof.Machine.execCloseTimerExpiry handle s
  | .holdExpiry handle => Sys2Proof.Machine.execHoldExpiry handle s
  | .parkExpiry handle => Sys2Proof.Machine.execParkExpiry handle s
  | .holdOffExpiry slot => Sys2Proof.Machine.execHoldOffExpiry slot s
  | .slotInquiryExpiry slot => Sys2Proof.Machine.execSlotInquiryExpiry slot s
  | .probeRound p => Sys2Proof.Machine.execProbeRound p s
  | .octetArrival o => Sys2Proof.Machine.execOctetArrival o s
  | .frameCheckFailure p octets => Sys2Proof.Machine.execFrameCheckFailure p octets s
  | .emptyRequestBody tag => Sys2Proof.Machine.execEmptyRequestBody tag s

end Sys2Proof.Machine
end

