-- ==== Sys2Proof/Machine/Step.lean ====
section
/-! DEFINITION. One step: the command at the front of the queue, or one idle microsecond. -/

namespace Sys2Proof.Machine

/-- With no command waiting, station time counts one microsecond, and what stands ready to be sent is begun; while RSTN
is low nothing changes (R180, R184). -/
def idle (s : State) : State :=
  if s.inReset then s else afterEvent { s with stc := { s.stc with time := s.stc.time + 1 } }

/-- One step of the part. -/
def step (s : State) : Host.Outcome State Fault Refusal :=
  match s.pending with
  | [] => .next (idle s)
  | c :: rest => exec c { s with pending := rest }

/-- The state with the command that a word spells at the front of its queue. -/
def State.withFetchWord (s : State) (nbits w : Nat) : State :=
  match decodeTableWord nbits w with
  | none => s
  | some c => { s with pending := c :: s.pending }

end Sys2Proof.Machine
end

