-- ==== Sys2Proof/WellFormed.lean ====
section
/-! DEFINITION. Which commands can occur: every number fits the field that carries it (Tables 8-1, 8-3, 8-5), every list
fits its count octet and its record (Table 8-4), and every handle, slot and kind is one the row can name. -/

namespace Sys2Proof.WellFormed

/-- A number that fits `n` bits. -/
def fits (n w : Nat) : Bool := decide (w < 2 ^ n)

/-- An optional number that fits `n` bits when present. -/
def optFits (n : Nat) : Option Nat → Bool
  | none => true
  | some w => fits n w

/-- A list or set of one-octet members behind one count octet (R157). -/
def octetList (l : List Nat) : Bool := fits 8 l.length && l.all (fits 8)

/-- A set: members are distinct (R157; R158 refuses a set that names one member twice). -/
def octetSet (l : List Nat) : Bool := octetList l && decide l.Nodup

/-- An optional list. -/
def optList : Option (List Nat) → Bool
  | none => true
  | some l => octetList l

/-- An optional set. -/
def optSet : Option (List Nat) → Bool
  | none => true
  | some l => octetSet l

/-- The body of a host-link record: at most 1022 octets (Table 9-2). -/
def recordBody (l : List Byte) : Bool := decide (l.length ≤ 1022)

/-- OPEN's parameters fit their fields. -/
def openArgs (a : OpenArgs) : Bool :=
  fits 8 a.slot && octetList a.list && optFits 8 a.cap && optFits 16 a.ackInterval && optFits 8 a.retryLimit &&
    optFits 16 a.holdOff

/-- ADD PEER's parameters fit their fields. -/
def addPeerArgs (a : AddPeerArgs) : Bool :=
  fits 16 a.node && optFits 8 a.flag && optList a.list && optFits 8 a.cap && optFits 16 a.ackInterval &&
    optFits 8 a.retryLimit && optFits 16 a.holdOff

/-- SET PATH's settings fit their fields. -/
def setPathArgs (a : SetPathArgs) : Bool :=
  optFits 16 a.sampleInterval && optFits 8 a.lineFilter && optFits 8 a.alarmFilter && optFits 16 a.settleTime &&
    optFits 16 a.probeInterval && optFits 8 a.missLimit && optSet a.sources && optSet a.companions &&
    optFits 8 a.autoRevive

/-- SET STATION's parameters fit their fields. -/
def setStationArgs (a : SetStationArgs) : Bool :=
  optFits 16 a.node && optFits 16 a.frameType && optFits 16 a.inquiryTimeout && optFits 16 a.openTimeout &&
    optFits 16 a.parkLimit

/-- The header fields of a received frame fit their octets (Table 8-1). -/
def rxHead (h : RxHead) : Bool :=
  fits 16 h.etherType && fits 16 h.srcNode && fits 16 h.dstNode && fits 16 h.srcHandle && fits 16 h.dstHandle &&
    fits 32 h.shift

/-- What the parser can hand over (Table 9-2). -/
def recordEnd : RecordEnd → Bool
  | .bad => true
  | .request tag body => fits 8 tag && recordBody body
  | .send tag body => fits 8 tag && recordBody body

end Sys2Proof.WellFormed

namespace Sys2Proof

/-- The commands that can occur. -/
def Instr.wellFormed : Instr → Bool
  | .powerOn => true
  | .resetAssert => true
  | .hostRecordEnd e => WellFormed.recordEnd e
  | .badRecord => true
  | .unknownRequest tag code params =>
      WellFormed.fits 8 tag && WellFormed.fits 8 code && decide (code = 0 ∨ 22 < code) &&
        decide (params.length ≤ 1021)
  | .send tag handle kind length payload =>
      WellFormed.fits 8 tag && WellFormed.fits 16 handle && WellFormed.fits 8 kind && WellFormed.fits 16 length &&
        decide (payload.length ≤ 1017)
  | .openConv tag a => WellFormed.fits 8 tag && WellFormed.openArgs a
  | .closeGraceful tag handle => WellFormed.fits 8 tag && WellFormed.fits 16 handle
  | .closeAbort tag handle => WellFormed.fits 8 tag && WellFormed.fits 16 handle
  | .hold tag handle d => WellFormed.fits 8 tag && WellFormed.fits 16 handle && WellFormed.fits 16 d
  | .release tag handle => WellFormed.fits 8 tag && WellFormed.fits 16 handle
  | .shift tag handle t => WellFormed.fits 8 tag && WellFormed.fits 16 handle && WellFormed.optFits 8 t
  | .restage tag handle l => WellFormed.fits 8 tag && WellFormed.fits 16 handle && WellFormed.octetList l
  | .clearReturned tag handle q => WellFormed.fits 8 tag && WellFormed.fits 16 handle && WellFormed.fits 32 q
  | .readConversation tag handle => WellFormed.fits 8 tag && WellFormed.fits 16 handle
  | .readJournal tag handle => WellFormed.fits 8 tag && WellFormed.fits 16 handle
  | .scan tag start count dir f =>
      WellFormed.fits 8 tag && WellFormed.fits 16 start && WellFormed.fits 8 count && WellFormed.fits 8 dir &&
        WellFormed.octetSet f
  | .addPeer tag a => WellFormed.fits 8 tag && WellFormed.addPeerArgs a
  | .removePeer tag slot => WellFormed.fits 8 tag && WellFormed.fits 8 slot
  | .readPeer tag slot => WellFormed.fits 8 tag && WellFormed.fits 8 slot
  | .setPath tag p a => WellFormed.fits 8 tag && WellFormed.fits 8 p && WellFormed.setPathArgs a
  | .quench tag p => WellFormed.fits 8 tag && WellFormed.fits 8 p
  | .revive tag p => WellFormed.fits 8 tag && WellFormed.fits 8 p
  | .drain tag p => WellFormed.fits 8 tag && WellFormed.fits 8 p
  | .readPath tag p => WellFormed.fits 8 tag && WellFormed.fits 8 p
  | .setStation tag a => WellFormed.fits 8 tag && WellFormed.setStationArgs a
  | .readStation tag => WellFormed.fits 8 tag
  | .setNoticeMask tag r => WellFormed.fits 8 tag && WellFormed.octetSet r
  | .restartCold tag => WellFormed.fits 8 tag
  | .restartWarm tag => WellFormed.fits 8 tag
  | .replyCompletion => true
  | .deliverCompletion => true
  | .noticeCompletion => true
  | .lineSample _ _ => true
  | .alarmSample _ _ => true
  | .settleExpiry _ => true
  | .frameCompletion _ => true
  | .dataReceived _ h seq kind payload =>
      WellFormed.rxHead h && WellFormed.fits 32 seq && WellFormed.fits 8 kind && WellFormed.fits 16 payload.length
  | .ackReceived _ h d => WellFormed.rxHead h && WellFormed.fits 32 d
  | .waitReceived _ h d => WellFormed.rxHead h && WellFormed.fits 32 d
  | .inquiryReceived _ h v => WellFormed.rxHead h && WellFormed.optFits 32 v
  | .answerReceived _ h o v d =>
      WellFormed.rxHead h && WellFormed.fits 8 o && WellFormed.optFits 32 v && WellFormed.fits 32 d
  | .openReceived _ h => WellFormed.rxHead h
  | .openReplyReceived _ h o => WellFormed.rxHead h && WellFormed.fits 8 o
  | .closeReceived _ h f => WellFormed.rxHead h && WellFormed.fits 32 f
  | .closeReplyReceived _ h f => WellFormed.rxHead h && WellFormed.fits 32 f
  | .abandonReceived _ h => WellFormed.rxHead h
  | .probeReceived _ h => WellFormed.rxHead h
  | .echoReceived _ h => WellFormed.rxHead h
  | .ackTimerExpiry h => WellFormed.fits 8 h
  | .inquiryTimerExpiry h => WellFormed.fits 8 h
  | .waitPauseExpiry h => WellFormed.fits 8 h
  | .openTimerExpiry h => WellFormed.fits 8 h
  | .closeTimerExpiry h => WellFormed.fits 8 h
  | .holdExpiry h => WellFormed.fits 8 h
  | .parkExpiry h => WellFormed.fits 8 h
  | .holdOffExpiry k => WellFormed.fits 3 k
  | .slotInquiryExpiry k => WellFormed.fits 3 k
  | .probeRound _ => true
  | .octetArrival _ => true
  | .frameCheckFailure _ _ => true
  | .emptyRequestBody tag => WellFormed.fits 8 tag

end Sys2Proof
end

