-- ==== Sys2Proof/Safety.lean ====
section
/-! DEFINITION. The vocabulary of the statements: when the host link takes a record at once, what a reply leaves, and the
invariants that every step keeps. -/

namespace Sys2Proof.Machine

/-! ## Taking a record at once -/

/-- RSTN is high, no entry waits in the input buffer, the reply queue has room, and no restart is pending: a record that
ends now is taken now (R162, R164). -/
def State.ready (s : State) : Prop :=
  s.inReset = false ∧ s.hlu.input = [] ∧ s.hlu.replies.length < Config.replyEntries ∧ s.hlu.restart = none

/-- The state that the owner of a request sees: the parser is HUNTING at a record's end (R156). -/
def State.hunting (s : State) : State := updHlu (fun u => { u with parser := .hunting }) s

/-- A command answers the state that a taking leaves, with the reply given at the tail of the reply queue, followed by
what then stands to be sent (R85, R164, R170; log entry 4). -/
def RepliesWith (c : Instr) (s : State) (tag code : Nat) (r : Result) (results : List Byte) (t : State) : Prop :=
  exec c s = .next (afterEvent (pushReply { tag := tag, code := code, result := r, results := results } t))

/-- An event that is no record and no completion answers the state that its taking leaves, followed by what then stands to
be sent (R85, R170; log entry 4). -/
def Takes (c : Instr) (s t : State) : Prop := exec c s = .next (afterEvent t)

/-- What the parser makes of a string of octets from HUNTING: its state at the end, and what it has handed over (R156). -/
def parsed (l : List Byte) : Parser × List RecordEnd :=
  l.foldl (fun a o => ((parseOctet o a.1).1, a.2 ++ (parseOctet o a.1).2.toList)) (.hunting, [])

/-- The record of a handle is replaced, and nothing else changes. -/
def State.withConv (s : State) (h : Nat) (c : Conv) : State := setConv h c s

/-- The record of a path is replaced, and nothing else changes. -/
def State.withPath (s : State) (p : Path) (r : PathRec) : State := updPath p (fun _ => r) s

/-- Station time after an expiry at `t` is taken (R180). -/
def State.atTime (s : State) (t : Nat) : State := advanceTo t s

/-! ## Records -/

/-- The values of a request fit their fields (Table 8-6). -/
def Request.fits : Request → Bool
  | .openConv a => WellFormed.openArgs a
  | .close h m => WellFormed.fits 16 h && WellFormed.fits 8 m
  | .hold h d => WellFormed.fits 16 h && WellFormed.fits 16 d
  | .release h => WellFormed.fits 16 h
  | .shift h t => WellFormed.fits 16 h && WellFormed.optFits 8 t
  | .restage h l => WellFormed.fits 16 h && WellFormed.octetList l
  | .clearReturned h q => WellFormed.fits 16 h && WellFormed.fits 32 q
  | .readConversation h => WellFormed.fits 16 h
  | .readJournal h => WellFormed.fits 16 h
  | .scan st n d f => WellFormed.fits 16 st && WellFormed.fits 8 n && WellFormed.fits 8 d && WellFormed.octetSet f
  | .addPeer a => WellFormed.addPeerArgs a
  | .removePeer k => WellFormed.fits 8 k
  | .readPeer k => WellFormed.fits 8 k
  | .setPath p a => WellFormed.fits 8 p && WellFormed.setPathArgs a
  | .quench p => WellFormed.fits 8 p
  | .revive p => WellFormed.fits 8 p
  | .drain p => WellFormed.fits 8 p
  | .readPath p => WellFormed.fits 8 p
  | .setStation a => WellFormed.setStationArgs a
  | .readStation => true
  | .setNoticeMask r => WellFormed.octetSet r
  | .restart k => WellFormed.fits 8 k

/-! ## Frames that reach the tables -/

/-- A frame's addresses and header pass the MAC's filter and the checks of R83 and R154 that do not depend on its kind
(R83, R151). -/
def PassesChecks (s : State) (p : Path) (hd : RxHead) : Prop :=
  s.inReset = false ∧ hd.etherDst = portAddr p s.stc.nodeId ∧ s.stc.frameType ≠ 0 ∧ hd.etherType = s.stc.frameType ∧
    s.stc.nodeId ≠ 0 ∧ hd.dstNode = s.stc.nodeId ∧ 1 ≤ hd.srcNode ∧ hd.srcNode ≤ 65534 ∧ hd.shift ≤ Config.maxSeq

/-- A frame passes those checks, its path is live, and its source node names the present entry of slot `k` with a link
address there (R53, R83, R84). -/
def Reaches (s : State) (p : Path) (hd : RxHead) (k : Nat) : Prop :=
  PassesChecks s p hd ∧ (s.path p).state.live = true ∧ s.senderOn p hd.srcNode = some k

/-- The command that the arrival of a frame with a header and a body on a path is. -/
def arrival (p : Path) (hd : RxHead) : RxBody → Instr
  | .data q k pl => .dataReceived p hd q k pl
  | .ack d => .ackReceived p hd d
  | .wait d => .waitReceived p hd d
  | .inquiry v => .inquiryReceived p hd v
  | .answer o v d => .answerReceived p hd o v d
  | .openFrame => .openReceived p hd
  | .openReply o => .openReplyReceived p hd o
  | .close f => .closeReceived p hd f
  | .closeReply f => .closeReplyReceived p hd f
  | .abandon => .abandonReceived p hd
  | .probe => .probeReceived p hd
  | .echo => .echoReceived p hd

/-- Both handle fields of a frame are present (Table 8-2). -/
def BothHandles (hd : RxHead) : Prop := hd.srcHandle < 256 ∧ hd.dstHandle < 256

/-- A record of peer slot `k` to which a frame with both handles is bound, OPENING apart (R2). -/
def BoundTo (c : Conv) (k : Nat) (hd : RxHead) : Prop :=
  c.state ≠ .lapsed ∧ c.state ≠ .opening ∧ c.peer = k ∧ c.peerHandle = some hd.srcHandle

/-- The state `v` is what R8's acceptance leaves of an OPENING record of peer slot `k` that a frame with both handles names
in `u` (R10). -/
def FromOpening (u : State) (p : Path) (k : Nat) (hd : RxHead) (v : State) : Prop :=
  ∃ b, u.conv hd.dstHandle = some b ∧ b.state = .opening ∧ b.peer = k ∧
    v = acceptOpening hd.dstHandle b hd.srcHandle p u

/-- The state `v` and record `c` against which a bound frame heard in `u` is taken by its own rule: as they stand, or, for an
OPENING record, as the acceptance of R10 leaves them (R2, R10, R53). -/
def TakenAgainst (u : State) (p : Path) (k : Nat) (hd : RxHead) (v : State) (c : Conv) : Prop :=
  v.conv hd.dstHandle = some c ∧ c.peer = k ∧ c.peerHandle = some hd.srcHandle ∧
    ((v = u ∧ BoundTo c k hd) ∨ FromOpening u p k hd v)

/-- A frame of peer slot `k` that names both handles is bound to no record in `u`: the handle it names is VACANT, LAPSED, of
another peer, or of another peer handle, OPENING records apart (R2). -/
def Unbound (u : State) (k : Nat) (hd : RxHead) : Prop :=
  ∀ c, u.conv hd.dstHandle = some c →
    c.state = .lapsed ∨ c.peer ≠ k ∨ (c.state ≠ .opening ∧ c.peerHandle ≠ some hd.srcHandle)

/-- A frame's taking on a live path: heard, then its rule's state `t`, then its reattach cue (R68, R84). -/
def TakesFrame (c : Instr) (s : State) (p : Path) (k : Nat) (t : State) : Prop := Takes c s (cueAll (some k) p t)

/-- The frame that an answer to peer slot `k` on path `p` is, for an entry and its link address. -/
def answerTo (e : Peer) (a : LinkAddr) (src dst : Option Nat) (shift : Nat) (body : FrameBody) (owner : Option Nat) :
    QFrame where
  dstNode := e.node
  dstAddr := a
  srcHandle := src
  dstHandle := dst
  shift := shift
  body := body
  owner := owner

/-- A path record with a frame at the tail of class 1 while that class has room (R86). -/
def PathRec.withAnswer (r : PathRec) (f : QFrame) : PathRec :=
  { r with class1 := if r.class1.length < 32 then r.class1 ++ [f] else r.class1 }

/-- A path record without the queued frames of a conversation (R1, R21). -/
def PathRec.without (r : PathRec) (h : Nat) : PathRec :=
  { r with
    class1 := r.class1.filter fun f => decide (f.owner ≠ some h)
    class2 := r.class2.filter fun f => decide (f.owner ≠ some h)
    class3 := r.class3.filter fun f => decide (f.owner ≠ some h)
    class4 := r.class4.filter fun f => decide (f.owner ≠ some h) }

/-- All frames queued on a path, by class. -/
def PathRec.queued (r : PathRec) : List QFrame := r.class1 ++ r.class2 ++ r.class3 ++ r.class4

/-! ## Notices -/

/-- The mask enables a reason of the set (R176). -/
def Ntu.rings (n : Ntu) (set : List Reason) : Prop := ∃ r ∈ set, r ∈ n.mask

/-- The closing record of a handle is ready (R176). -/
def Ntu.closingRings (n : Ntu) (h : Nat) : Prop := ∃ z, KMap.get? n.closing h = some z ∧ n.rings z.reasons

/-- A handle has a ready closing record or a ready live set (R176). -/
def Ntu.handleRings (n : Ntu) (h : Nat) : Prop := n.closingRings h ∨ n.rings (reasonsAt n.convs h)

/-- How far a handle stands behind the one after the rotation point, in the order of R177. -/
def Ntu.turnsTo (n : Ntu) (h : Nat) : Nat := (h + 255 - n.rotation) % 256

/-! ## Paths that change state -/

/-- State `u` is `s` with the probe rounds of a path stopped (R113): its class 3 and round timer gone, every entry UNKNOWN
there with miss count 0, REACHABILITY raised where that changed an entry with a link address, and nothing else. -/
def RoundsStopped (p : Path) (s u : State) : Prop :=
  (∃ n t, u = { s with
    paths := s.paths.set p { s.path p with class3 := [] }, prt := t, ntu := { s.ntu with peers := n } }) ∧
    u.prt.rounds = s.prt.rounds.set p none ∧
    ∀ k, (s.peer k = none → u.peer k = none) ∧
      ∀ e, s.peer k = some e →
        u.peer k = some { e with
          links := e.links.set p { e.links.get p with reach := .unknown, miss := 0, heard := false } } ∧
        ((e.links.get p).link ≠ none → (e.links.get p).reach ≠ .unknown → .reachability ∈ reasonsAt u.ntu.peers k)

/-- The PEER-ALL condition holds on a path over the entries of some slots (R97). -/
def PeerAllOver (s : State) (p : Path) (among : Nat → Prop) : Prop :=
  (∃ j e, among j ∧ s.peer j = some e ∧ (e.links.get p).link ≠ none) ∧
    ∀ j e, among j → s.peer j = some e → (e.links.get p).link ≠ none → (e.links.get p).reach = .unreachable

/-- State `u` is `s` after the PEER-ALL condition was tested on a path over some slots: the path quenched if it holds, the
path is live and the source is enabled, and otherwise `s` (R93, R97). -/
def PeerAllTested (p : Path) (among : Nat → Prop) (s u : State) : Prop :=
  (PeerAllOver s p among → (s.path p).state.live = true → .peerAll ∈ (s.path p).sources →
    u = quenchPath p .peerAll s) ∧
  ((¬ PeerAllOver s p among ∨ (s.path p).state.live = false ∨ .peerAll ∉ (s.path p).sources) → u = s)

/-! ## Invariants -/

/-- The buffers of the host link are within their sizes (Table 9-1). -/
def LinkBounded (s : State) : Prop :=
  s.hlu.input.length ≤ Config.inputEntries ∧ s.hlu.replies.length ≤ Config.replyEntries

/-- The delivery queue holds at most 64 entries (R54). -/
def QueueBounded (s : State) : Prop := s.dlq.entries.length ≤ Config.deliveryEntries

/-- Every fault score lies in 0 to 255 (R78). -/
def ScoresBounded (s : State) : Prop := ∀ p, (s.path p).score ≤ Config.maxScore

/-- The Retention Store's map is in its canonical form: cell numbers strictly rising. -/
def Memory.wf (m : KMap (List Byte)) : Bool := m.wf

/-- The Retention Store is in its canonical form. -/
def StoreCanonical (s : State) : Prop := Memory.wf s.rts.cells = true

/-- The tables of conversations and peers and the slots are in their canonical form. -/
def TablesCanonical (s : State) : Prop := s.convs.wf = true ∧ s.prt.peers.wf = true

/-- The cells that journal records hold, over all conversations. -/
def State.journalCells (s : State) : List Nat := s.convs.flatMap fun e => e.2.journal.map JRec.cell

/-- Free cells and the cells of journal records number 1024 (R27). -/
def CellsBalance (s : State) : Prop := s.rts.free.length + s.journalCells.length = Config.cells

end Sys2Proof.Machine
end

