-- ==== Sys2Proof/Certificates/Slice0/Obligations.lean ====
section
/-! DEFINITION. The statements for the provers. -/

open Sys2Proof Sys2Proof.Machine

/-! ## The machine's own steps -/

/-- A step runs the command at the front of the queue on the state with the queue's rest; on an empty queue it is the idle
step, which is the model's own choice (log entry 1). -/
def Obligations.StepRunsTheFrontCommand : Prop :=
  (∀ (c : Instr) (rest : List Instr) (s : State), s.pending = c :: rest → step s = exec c { s with pending := rest }) ∧
    ∀ s : State, s.pending = [] → step s = .next (idle s)

/-- What reset leaves: the values the spec gives for power-on, block by block. -/
def Obligations.ResetLeavesThePowerOnValues : Prop :=
  State.reset.stc.nodeId = 0 ∧ State.reset.stc.frameType = 0 ∧ State.reset.stc.inquiryTimeout = 40 ∧
  State.reset.stc.openTimeout = 200 ∧ State.reset.stc.parkLimit = 0 ∧ State.reset.stc.time = 0 ∧
  (∀ h, State.reset.conv h = none) ∧ State.reset.rts.free = List.range 1024 ∧ State.reset.dlq.entries = [] ∧
  State.reset.dlq.tx = .none ∧
  (∀ p, (State.reset.path p).state = .down ∧ (State.reset.path p).score = 0 ∧ (State.reset.path p).lineUp = false ∧
    (State.reset.path p).alarm = false ∧ (State.reset.path p).cause = none ∧ (State.reset.path p).queued = [] ∧
    (State.reset.path p).tx = none ∧ (State.reset.path p).rotation = 255 ∧
    (State.reset.path p).sampleInterval = 1000 ∧ (State.reset.path p).lineFilter = true ∧
    (State.reset.path p).alarmFilter = true ∧ (State.reset.path p).settleTime = 2000 ∧
    (State.reset.path p).probeInterval = 100 ∧ (State.reset.path p).missLimit = 3 ∧
    (State.reset.path p).sources = [.score, .peerAll] ∧ (State.reset.path p).companions = [] ∧
    (State.reset.path p).autoRevive = false) ∧
  (∀ k, State.reset.peer k = none) ∧ (∀ p, State.reset.prt.rounds.get p = none) ∧ State.reset.she.queue = [] ∧
  (∀ k, State.reset.slot k = none) ∧ State.reset.hlu.input = [] ∧ State.reset.hlu.replies = [] ∧
  State.reset.hlu.out = none ∧ State.reset.hlu.lastShared = .deliver ∧ State.reset.hlu.restart = none ∧
  State.reset.hlu.parser = .hunting ∧ State.reset.acceptHigh = true ∧ State.reset.ntu.station = [.started] ∧
  State.reset.ntu.startKind = .powerOn ∧ (∀ r, r ∈ State.reset.ntu.mask ↔ r ≠ .settled) ∧
  State.reset.ntu.rotation = 255

/-- The invariants of the model hold after reset. -/
def Obligations.ResetMeetsTheInvariants : Prop :=
  LinkBounded State.reset ∧ QueueBounded State.reset ∧ ScoresBounded State.reset ∧ StoreCanonical State.reset ∧
    TablesCanonical State.reset ∧ CellsBalance State.reset

/-- Every step keeps the input buffer and the reply queue within 8 entries and the delivery queue within 64 (R54, Table
9-1). -/
def Obligations.EveryStepKeepsTheBuffersBounded : Prop :=
  (∀ s t : State, LinkBounded s → step s = .next t → LinkBounded t) ∧
    ∀ s t : State, QueueBounded s → step s = .next t → QueueBounded t

/-- Every step keeps every fault score within 0 to 255 (R78). -/
def Obligations.EveryStepKeepsTheScoresBounded : Prop :=
  ∀ s t : State, ScoresBounded s → step s = .next t → ScoresBounded t

/-- Every step keeps the Retention Store in its canonical form, the tables canonical, and free cells and journal records
together at 1024 (R27). -/
def Obligations.EveryStepKeepsTheCellsInBalance : Prop :=
  (∀ s t : State, StoreCanonical s → step s = .next t → StoreCanonical t) ∧
    ∀ s t : State, TablesCanonical s → CellsBalance s → step s = .next t → TablesCanonical t ∧ CellsBalance t

/-- Every command answers a next state, never a fault and never a refusal, and takes nothing but itself off the queue; and
station time never goes back but at power-on and reset. -/
def Obligations.EveryCommandAnswersANextState : Prop :=
  (∀ (c : Instr) (s : State), ∃ t, exec c s = .next t ∧ t.pending = s.pending) ∧
  ∀ (c : Instr) (s t : State), c ≠ .powerOn → c ≠ .resetAssert → exec c s = .next t → s.stc.time ≤ t.stc.time

/-- What the end of a taking may change: it begins frames and one outbound record, and touches nothing else (log entry 4).
The peer table, the cells, the shift engine, station control, the delivery entries and the input buffer stay; a path keeps
all but its queues, its frame in transmission and its rotation point, and a busy path keeps everything; a conversation keeps
all but its journal's statuses and its ack timer, and one that is not CARRYING keeps everything.  A journal keeps its
records in order, each with its sequence, kind, length and cell: one that changes has become SENT under the send shift; the
ack timer changes only from stopped to ACK-WAIT; the rotation point of a path moves only to the handle whose frame the path
now begins.  The outbound link takes the record of R169: the head reply, else the only kind that waits, else the kind that
is not the last shared turn, which alone moves that mark. -/
def Obligations.TheEndOfATakingOnlyBeginsSending : Prop :=
  (∀ s : State,
    (afterEvent s).stc = s.stc ∧ (afterEvent s).prt = s.prt ∧ (afterEvent s).rts = s.rts ∧
    (afterEvent s).she = s.she ∧ (afterEvent s).dlq.entries = s.dlq.entries ∧
    (afterEvent s).hlu.input = s.hlu.input ∧ (afterEvent s).hlu.restart = s.hlu.restart ∧
    (afterEvent s).hlu.parser = s.hlu.parser ∧ (s.hlu.out ≠ none → (afterEvent s).hlu = s.hlu) ∧
    (∀ r ∈ s.hlu.replies, r ∈ (afterEvent s).hlu.replies ∨ (afterEvent s).hlu.out = some (.reply r)) ∧
    (∀ p, (s.path p).tx ≠ none → (afterEvent s).path p = s.path p) ∧
    (∀ p, { ((afterEvent s).path p).emptied with tx := (s.path p).tx, rotation := (s.path p).rotation } =
      (s.path p).emptied) ∧
    ∀ h, (s.conv h = none → (afterEvent s).conv h = none) ∧
      ∀ c, s.conv h = some c → ∃ d, (afterEvent s).conv h = some d ∧
        { d with journal := c.journal, ackTimer := c.ackTimer } = c ∧ (c.state ≠ .carrying → d = c)) ∧
  (∀ s : State,
    (afterEvent s).pending = s.pending ∧ (afterEvent s).inReset = s.inReset ∧
    afterEvent s = chooseOut (beginPort .p3 (beginPort .p2 (beginPort .p1 (beginPort .p0 s)))) ∧
    (∀ p, ((afterEvent s).path p).rotation ≠ (s.path p).rotation →
      ∃ f, ((afterEvent s).path p).tx = some f ∧ f.srcHandle = some ((afterEvent s).path p).rotation) ∧
    ∀ h c d, s.conv h = some c → (afterEvent s).conv h = some d →
      d.journal.length = c.journal.length ∧
      (∀ (i : Nat) (r q : JRec), c.journal[i]? = some r → d.journal[i]? = some q →
        q = r ∨ q = { r with status := .sent, sentShift := some c.sendShift }) ∧
      (d.ackTimer = c.ackTimer ∨
        c.ackTimer = .stopped ∧ d.ackTimer = .ackWait (s.stc.time + c.ackInterval * 1000))) ∧
  ∀ s : State,
    (s.hlu.out ≠ none → chooseOut s = s) ∧
    (s.hlu.out = none →
      (∀ r l, s.hlu.replies = r :: l →
        chooseOut s = { s with hlu := { s.hlu with out := some (.reply r), replies := l } }) ∧
      (s.hlu.replies = [] →
        (s.dlq.entries = [] → s.ntu.firstReady = none → chooseOut s = s) ∧
        (∀ e l, s.dlq.entries = e :: l → s.ntu.firstReady = none →
          chooseOut s = { s with hlu := { s.hlu with out := some (.deliver e) }, dlq := { s.dlq with tx := .head } }) ∧
        (∀ x, s.dlq.entries = [] → s.ntu.firstReady = some x →
          chooseOut s =
            { (buildNotice x s).2 with hlu := { s.hlu with out := some (.notice (buildNotice x s).1) } }) ∧
        ∀ e l x, s.dlq.entries = e :: l → s.ntu.firstReady = some x →
          (s.hlu.lastShared = .deliver →
            chooseOut s =
              { (buildNotice x s).2 with
                hlu := { s.hlu with out := some (.notice (buildNotice x s).1), lastShared := .notice } }) ∧
          (s.hlu.lastShared = .notice →
            chooseOut s =
              { s with
                hlu := { s.hlu with out := some (.deliver e), lastShared := .deliver }
                dlq := { s.dlq with tx := .head } })))

/-! ## Power-on and reset -/

/-- POWER ON leaves every block at its power-on values with station time 0; while RSTN is low nothing but POWER ON and
RESET ASSERT changes anything, the accept line is LOW, and the blocks hold their power-on values. -/
def Obligations.PowerOnAndResetHoldThePowerOnValues : Prop :=
  (∀ s : State, exec .powerOn s = .next { State.reset with pending := s.pending }) ∧
  (∀ s : State, exec .resetAssert s = .next { State.reset with pending := s.pending, inReset := true }) ∧
  ∀ (c : Instr) (s : State), s = { State.reset with pending := s.pending, inReset := true } → c ≠ .powerOn →
    s.acceptHigh = false ∧ exec c s = .next s

/-! ## The host link -/

/-- A record's end hands one entry to the tail of the input buffer while the accept line is HIGH; with the reply queue full
it waits there, on a ready link it is taken at once, and with the line LOW it is lost.  What decoding answers itself reaches
no block: a bad record, an unknown code, an empty body (R158, R162, R163, R164).  Every request in the octets of Table 8-6 and
every SEND in those of 8.8 decodes to itself; a SEND whose payload does not number its length field does not decode. -/
def Obligations.ARecordEndIsBufferedAndDecoded : Prop :=
  (∀ (tag : Nat) (r : Request), r.fits = true →
     decodeEntry (.request tag (octetsOf 1 r.code ++ r.params)) = .request tag r) ∧
  (∀ (tag h k len : Nat) (payload : List Byte), h < 65536 → k < 256 → len < 65536 →
     (payload.length = len →
       decodeEntry (.send tag (octetsOf 2 h ++ octetsOf 1 k ++ octetsOf 2 len ++ payload)) =
         .send tag h k len payload) ∧
     (payload.length ≠ len →
       decodeEntry (.send tag (octetsOf 2 h ++ octetsOf 1 k ++ octetsOf 2 len ++ payload)) = .malformed tag 255)) ∧
  (∀ (e : RecordEnd) (s : State),
     (s.acceptHigh = false → exec (.hostRecordEnd e) s = .next s) ∧
     (s.acceptHigh = true → Config.replyEntries ≤ s.hlu.replies.length →
       exec (.hostRecordEnd e) s =
         .next { s with hlu := { s.hlu with input := s.hlu.input ++ [e], parser := .hunting } }) ∧
     (s.ready → exec (.hostRecordEnd e) s = .next (afterEvent (decideTaking (decodeEntry e) s.hunting)))) ∧
  ∀ s : State, s.ready →
    RepliesWith .badRecord s 0 0 .badRecord [] s.hunting ∧
    RepliesWith (.hostRecordEnd .bad) s 0 0 .badRecord [] s.hunting ∧
    (∀ tag, RepliesWith (.emptyRequestBody tag) s tag 0 .badValue [] s.hunting) ∧
    ∀ tag code params, (Instr.unknownRequest tag code params).wellFormed = true →
      RepliesWith (.unknownRequest tag code params) s tag code .unknownRequest [] s.hunting

/-- A whole record of the host, octet by octet from HUNTING, ends in exactly one entry with its tag and body, and the parser
HUNTING again: a REQUEST, a SEND, and a bad record for any other kind, for a wrong check, and at once for a length outside 2 to
1024; an octet that is not the start octet is discarded while HUNTING (R155, R156).  A record is the start octet, its length,
kind, tag and body, and its CRC-16 (Table 8-4, R155).  The records the part sends are a REPLY of its code, result and results
(R159), a DELIVER of the entry's values (R160) and a NOTICE of its object, its reasons in ascending code order and the
object's snapshot (R161), in the octets of R157 and the codes of 8.7 to 8.10; that a time beyond 64 bits is reduced to them is
log entry 8. -/
def Obligations.TheParserFramesARecord : Prop :=
  (∀ (kind tag : Nat) (body : List Byte), kind < 256 → tag < 256 → body.length ≤ 1022 →
    parsed (recordOctets kind tag body) =
      (.hunting, [if kind = 1 then .request tag body else if kind = 2 then .send tag body else .bad])) ∧
  (∀ (kind tag : Nat) (body covered check : List Byte), body.length ≤ 1022 →
    covered = octetsOf 2 (body.length + 2) ++ octetsOf 1 kind ++ octetsOf 1 tag ++ body →
    recordOctets kind tag body = 0xC3#8 :: (covered ++ octetsOf 2 (crc16 covered).toNat) ∧
    (check.length = 2 → check ≠ octetsOf 2 (crc16 covered).toNat →
      parsed (0xC3#8 :: (covered ++ check)) = (.hunting, [.bad]))) ∧
  (∀ n : Nat, n < 65536 → (n < 2 ∨ 1024 < n) → parsed (0xC3#8 :: octetsOf 2 n) = (.hunting, [.bad])) ∧
  (∀ o : Byte, o ≠ 0xC3#8 → parseOctet o .hunting = (.hunting, none)) ∧
  (crc16 [] = 0xFFFF#16 ∧
    (∀ l o, crc16 (l ++ [o]) = (List.range 8).foldl (fun a _ => crc16Bit a) (crc16 l ^^^ (o.setWidth 16 <<< 8))) ∧
    ∀ c : BitVec 16, crc16Bit c = if c.getLsbD 15 = true then (c <<< 1) ^^^ 0x1021#16 else c <<< 1) ∧
  (∀ r : Reply, (OutRecord.reply r).octets =
    recordOctets 3 r.tag (octetsOf 1 r.code ++ octetsOf 1 (codeOfResult r.result) ++ r.results)) ∧
  (∀ e : DlqEntry, (OutRecord.deliver e).octets =
    recordOctets 4 0
      (octetsOf 2 e.handle ++ octetsOf 4 e.seq ++ octetsOf 1 (codeOfKind e.kind) ++ octetsOf 2 e.length ++
        e.payload)) ∧
  (∀ l : List Reason, ∃ codes : List Nat, octetsOfReasons l = octetsOf 1 codes.length ++ codes.flatMap (octetsOf 1) ∧
    codes.Pairwise (· < ·) ∧ ∀ n, n ∈ codes ↔ ∃ r ∈ l, codeOfReason r = n) ∧
  (∀ k n f x l, (OutRecord.notice ⟨.station k n f x, l⟩).octets =
    recordOctets 5 0
      (octetsOf 1 1 ++ octetsOf 2 0 ++ octetsOfReasons l ++
        (octetsOf 1 (codeOfStart k) ++ octetsOf 2 n ++ octetsOf 2 f ++ octetsOf 8 x))) ∧
  (∀ p st sc cause lu lt al x l, (OutRecord.notice ⟨.path p st sc cause lu lt al x, l⟩).octets =
    recordOctets 5 0
      (octetsOf 1 2 ++ octetsOf 2 p.num ++ octetsOfReasons l ++
        (octetsOf 1 (codeOfPathState st) ++ octetsOf 1 sc ++ octetsOfOpt (fun y => octetsOf 1 (codeOfCause y)) cause ++
          octetsOf 1 (if lu = true then 1 else 2) ++ octetsOf 8 lt ++ octetsOf 1 (if al = true then 1 else 2) ++
          octetsOf 8 x))) ∧
  (∀ k n r l, (OutRecord.notice ⟨.peer k n r, l⟩).octets =
    recordOctets 5 0
      (octetsOf 1 3 ++ octetsOf 2 k ++ octetsOfReasons l ++
        (octetsOf 2 n ++ Path.all.flatMap fun p => octetsOf 1 (codeOfReach (r.get p))))) ∧
  (∀ (h : Nat) (c : ConvSnapshot) (l : List Reason), (OutRecord.notice ⟨.conversation h c, l⟩).octets =
    recordOctets 5 0
      (octetsOf 1 4 ++ octetsOf 2 h ++ octetsOfReasons l ++
        (octetsOf 1 (codeOfState c.state) ++ octetsOfOpt (fun p => octetsOf 1 p.num) c.active ++
          octetsOf 4 c.settled ++ octetsOf 4 (c.nextSeq.getD 0) ++ octetsOf 4 c.delivered ++ octetsOf 2 c.shiftCount ++
          octetsOf 2 c.returnedCount ++ octetsOfOptNum 4 c.lowestReturned ++
          octetsOfOpt (fun r => octetsOf 1 (codeOfLapse r)) c.lapseReason))) ∧
  ((∀ n v, (octetsOf n v).length = n ∧ octetsOf 0 v = [] ∧
      octetsOf (n + 1) v = BitVec.ofNat 8 (v / 256 ^ n) :: octetsOf n v) ∧
    octetsOfBool false = [0#8] ∧ octetsOfBool true = [1#8] ∧ (∀ n, octetsOfOptNum n none = [0#8]) ∧
    (∀ n v, octetsOfOptNum n (some v) = 1#8 :: octetsOf n v) ∧
    (∀ l, octetsOfList l = octetsOf 1 l.length ++ l.flatMap (octetsOf 1)) ∧
    ∀ ps, octetsOfPaths ps = octetsOf 1 ps.length ++ ps.flatMap fun p => octetsOf 1 p.num) ∧
  ([none, some .opening, some .carrying, some .shiftQueued, some .shifting, some .withheld, some .parked,
      some .lapsed].map codeOfState = [1, 2, 3, 4, 5, 6, 7, 8] ∧
    [Role.opener, .acceptor].map codeOfRole = [1, 2] ∧
    [CloseStage.opened, .draining, .closeSent, .closedOut].map codeOfClose = [1, 2, 3, 4] ∧
    [LapseReason.openFailed, .openRefused, .notKnown, .abandoned, .parkExpired, .restartInOpening].map codeOfLapse =
      [1, 2, 3, 4, 5, 6] ∧
    [RecKind.ordinary, .singleShot].map codeOfKind = [1, 2] ∧
    [JStatus.waiting, .sent, .returned, .unsure].map codeOfStatus = [1, 2, 3, 4] ∧
    (∀ x v, [AckTimer.stopped, .ackWait x, .inquiry 1 v x, .inquiry 2 v x, .inquiry 3 v x].map codeOfAckTimer =
      [1, 2, 3, 4, 5]) ∧
    [PathState.down, .proving, .sound, .suspect, .quenched, .drained].map codeOfPathState = [1, 2, 3, 4, 5, 6] ∧
    [Cause.manual, .score, .plane, .companion, .peerAll].map codeOfCause = [1, 2, 3, 4, 5] ∧
    [QuenchSource.score, .plane, .companion, .peerAll].map codeOfSource = [1, 2, 3, 4] ∧
    [Reach.unknown, .reachable, .unreachable].map codeOfReach = [1, 2, 3] ∧
    [StartKind.powerOn, .cold, .warm].map codeOfStart = [1, 2, 3] ∧
    [Result.done, .accepted, .busy, .wrongState, .badHandle, .badValue, .badList, .noRoom, .noPeer, .noPath, .limit,
      .full, .exhausted, .notHeld, .expired, .inUse, .causePresent, .noStation, .unknownRequest,
      .badRecord].map codeOfResult = List.range' 1 20 ∧
    [Reason.opened, .openedByPeer, .settled, .shiftBegun, .shifted, .parked, .withheld, .holdExpired, .returned,
      .lapsed, .farClosed, .closed, .stagedApplied, .state, .falseRevival, .line, .alarm, .reachability,
      .started].map codeOfReason = List.range' 1 19)

/-- An octet that arrives while the accept line is LOW changes nothing; one that ends no record moves the parser alone; one
that ends a record on a ready link has the record taken. -/
def Obligations.AnArrivingOctetMovesTheParser : Prop :=
  ∀ (o : Byte) (s : State),
    (s.acceptHigh = false → exec (.octetArrival o) s = .next s) ∧
    (s.acceptHigh = true → (parseOctet o s.hlu.parser).2 = none →
      Takes (.octetArrival o) s { s with hlu := { s.hlu with parser := (parseOctet o s.hlu.parser).1 } }) ∧
    (s.ready → ∀ e, (parseOctet o s.hlu.parser).2 = some e →
      Takes (.octetArrival o) s
        (decideTaking (decodeEntry e)
          { s with hlu := { s.hlu with parser := (parseOctet o s.hlu.parser).1 } }))

/-- SEND: the checks in their order, and the acceptance (R30, R31).  A length field that does not number the payload is
refused in decoding, before any check of R30 (R158).  What the taking leaves ready to be sent is begun at its end by
`afterEvent`, the model's reading of R85 and R170 (log entry 4). -/
def Obligations.SendIsCheckedAndAccepted : Prop :=
  ∀ (tag h kind len : Nat) (payload : List Byte) (s : State),
    (Instr.send tag h kind len payload).wellFormed = true → s.ready →
    if payload.length ≠ len then RepliesWith (.send tag h kind len payload) s tag 255 .badValue [] s.hunting
    else
      match (if h < 256 then s.conv h else none) with
      | none => RepliesWith (.send tag h kind len payload) s tag 255 .badHandle [] s.hunting
      | some c =>
          if c.state = .lapsed ∨ c.closeStage ≠ .opened then
            RepliesWith (.send tag h kind len payload) s tag 255 .wrongState [] s.hunting
          else if len < 1 ∨ 512 < len ∨ (kind ≠ 1 ∧ kind ≠ 2) then
            RepliesWith (.send tag h kind len payload) s tag 255 .badValue [] s.hunting
          else
            match c.nextSeq with
            | none => RepliesWith (.send tag h kind len payload) s tag 255 .exhausted [] s.hunting
            | some q =>
                if c.cap ≤ c.journal.length then
                  RepliesWith (.send tag h kind len payload) s tag 255 .limit [] s.hunting
                else
                  match s.rts.free with
                  | [] => RepliesWith (.send tag h kind len payload) s tag 255 .full [] s.hunting
                  | cell :: rest =>
                      RepliesWith (.send tag h kind len payload) s tag 255 .accepted (octetsOf 2 h ++ octetsOf 4 q)
                        { s.hunting with
                          rts := { cells := KMap.set s.rts.cells cell payload, free := rest }
                          convs := KMap.set s.convs h
                            { c with
                              journal := c.journal ++
                                [{ seq := q, kind := if kind = 1 then .ordinary else .singleShot, length := len,
                                   cell := cell, status := .waiting, sentShift := none }]
                              nextSeq := if q = 4294967295 then none else some (q + 1) } }

/-- OPEN: the checks in their order, and the acceptance: the lowest VACANT handle, the record as R6 fills it, and the first
attempt on the first usable path of the list, whose class 2 takes the OPEN frame unless it is full or an OPEN of the handle
stands there (log entry 11); the rest of that path's queues, every other path and every other block stand, and of the host
link all but the parser, which is HUNTING at the record's end (R4 to R7, R86, R156).  The four settings are accepted in their
ranges of Table 1-1. -/
def Obligations.OpenIsCheckedAndAccepted : Prop :=
  (∀ cap ack retry holdOff : Option Nat,
    settingsOk cap ack retry holdOff = true ↔
      (∀ v ∈ cap, 1 ≤ v ∧ v ≤ 64) ∧ (∀ v ∈ ack, 10 ≤ v ∧ v ≤ 2000) ∧ (∀ v ∈ retry, v ≤ 7) ∧ ∀ v ∈ holdOff, v ≤ 250) ∧
  ∀ (tag : Nat) (a : OpenArgs) (s : State), (Instr.openConv tag a).wellFormed = true → s.ready →
    if s.stc.nodeId = 0 ∨ s.stc.frameType = 0 then
      RepliesWith (.openConv tag a) s tag 1 .noStation [] s.hunting
    else
      match (List.range 256).find? (fun h => (s.conv h).isNone) with
      | none => RepliesWith (.openConv tag a) s tag 1 .noRoom [] s.hunting
      | some h =>
          match (if a.slot < 32 then s.peer a.slot else none) with
          | none => RepliesWith (.openConv tag a) s tag 1 .noPeer [] s.hunting
          | some e =>
              match preferenceList a.list with
              | none => RepliesWith (.openConv tag a) s tag 1 .badList [] s.hunting
              | some prefs =>
                  if settingsOk a.cap a.ackInterval a.retryLimit a.holdOff = false then
                    RepliesWith (.openConv tag a) s tag 1 .badValue [] s.hunting
                  else
                    match prefs.find? (s.usable a.slot) with
                    | none => RepliesWith (.openConv tag a) s tag 1 .noPath [] s.hunting
                    | some p =>
                        ∃ t c, RepliesWith (.openConv tag a) s tag 1 .accepted (octetsOf 2 h) t ∧
                          t.convs = KMap.set s.convs h c ∧ c.state = .opening ∧ c.role = .opener ∧
                          c.peer = a.slot ∧ c.peerHandle = none ∧ c.prefs = prefs ∧ c.cap = a.cap.getD 16 ∧
                          c.ackInterval = a.ackInterval.getD 100 ∧ c.retryLimit = a.retryLimit.getD 2 ∧
                          c.holdOff = a.holdOff.getD 20 ∧ c.nextSeq = some 1 ∧ c.settled = 0 ∧ c.sendShift = 1 ∧
                          c.retryCount = 0 ∧ c.received = 0 ∧ c.delivered = 0 ∧ c.inShift = 0 ∧
                          c.closeStage = .opened ∧ c.farClosed = false ∧ c.holdExpired = false ∧
                          c.shiftCount = 0 ∧ c.journal = [] ∧ c.active = none ∧ c.staged = none ∧
                          c.forced = none ∧ c.ackPath = none ∧ c.hold = none ∧ c.lapseReason = none ∧
                          c.parkStart = none ∧ c.openAttempt = some (p, 1) ∧
                          c.openTimer = some (s.stc.time + s.stc.openTimeout * 1000) ∧
                          t.stc = s.stc ∧ t.rts = s.rts ∧ t.dlq = s.dlq ∧ t.prt = s.prt ∧ t.she = s.she ∧
                          t.ntu = s.ntu ∧ t.hlu = s.hunting.hlu ∧ t.pending = s.pending ∧ t.inReset = s.inReset ∧
                          (∀ q, q ≠ p → t.path q = s.path q) ∧
                          (t.path p).emptied = (s.path p).emptied ∧
                          ((e.links.get p).link = none → t.path p = s.path p) ∧
                          ∀ l, (e.links.get p).link = some l →
                            t.path p = { s.path p with
                              class2 :=
                                if (∃ f ∈ (s.path p).class2, f.body = .openFrame ∧ f.srcHandle = some h) ∨
                                    64 ≤ (s.path p).class2.length then (s.path p).class2
                                else (s.path p).class2 ++ [answerTo e l (some h) none 0 .openFrame (some h)] }

/-- CLOSE: handle, then mode; a LAPSED record becomes VACANT with either mode; GRACEFUL moves OPEN to DRAINING; ABORT makes
the record VACANT at once.  With a peer handle and a usable path of its list, its ABANDON first joins class 2 of the first
such path, while that has room, and no other queue changes; becoming VACANT then takes only the record's own frames out of
the queues, of every path (stated with the shift queue empty, so that no grant queues an INQUIRY).  The CLOSE frame of a
DRAINING conversation: CARRYING with nothing WAITING or SENT it joins class 2 of the active path, with the final sequence
that is the highest assigned, unless its copy stands there (log entry 11) or the class is full, and the close timer runs;
otherwise nothing changes (R15 to R17, R20, R23, R86). -/
def Obligations.CloseIsDecidedByModeAndState : Prop :=
  (∀ (tag h : Nat) (s : State), (Instr.closeGraceful tag h).wellFormed = true → s.ready →
    match (if h < 256 then s.conv h else none) with
    | none =>
        RepliesWith (.closeGraceful tag h) s tag 2 .badHandle [] s.hunting ∧
          RepliesWith (.closeAbort tag h) s tag 2 .badHandle [] s.hunting
    | some c =>
        if c.state = .lapsed then
          RepliesWith (.closeGraceful tag h) s tag 2 .done [] (vacate h s.hunting) ∧
            RepliesWith (.closeAbort tag h) s tag 2 .done [] (vacate h s.hunting)
        else
          (if c.closeStage = .opened then
            RepliesWith (.closeGraceful tag h) s tag 2 .accepted []
              (checkClose h (s.hunting.withConv h { c with closeStage := .draining }))
          else RepliesWith (.closeGraceful tag h) s tag 2 .wrongState [] s.hunting) ∧
          match c.peerHandle, c.prefs.find? (s.usable c.peer) with
          | some ph, some p =>
              ((s.linkOn c.peer p = none → RepliesWith (.closeAbort tag h) s tag 2 .done [] (vacate h s.hunting)) ∧
                ∀ e a, s.peer c.peer = some e → (e.links.get p).link = some a →
                  RepliesWith (.closeAbort tag h) s tag 2 .done []
                    (vacate h (s.hunting.withPath p
                      { s.path p with
                        class2 :=
                          if (s.path p).class2.length < 64 then
                            (s.path p).class2 ++ [answerTo e a (some h) (some ph) 0 .abandon none]
                          else (s.path p).class2 })))
          | _, _ => RepliesWith (.closeAbort tag h) s tag 2 .done [] (vacate h s.hunting)) ∧
  (∀ (h : Nat) (c : Conv) (t : State), t.conv h = some c → t.she.queue = [] → ∀ q,
    (vacate h t).path q = (t.path q).without h) ∧
  ∀ (h : Nat) (c : Conv) (t : State), t.conv h = some c →
    (∀ n, c.nextSeq = some n → c.highest = n - 1) ∧ (c.nextSeq = none → c.highest = 4294967295) ∧
    ((c.state ≠ .carrying ∨ c.closeStage ≠ .draining ∨ hasSent c.journal = true ∨ hasWaiting c.journal = true) →
      checkClose h t = t) ∧
    (c.state = .carrying → c.closeStage = .draining → hasSent c.journal = false → hasWaiting c.journal = false →
      ∀ p e a, c.active = some p → t.peer c.peer = some e → (e.links.get p).link = some a →
        ∀ f, f = answerTo e a (some h) c.peerHandle 0 (.close c.highest) (some h) →
          checkClose h t =
            (t.withConv h
              { c with closeStage := .closeSent,
                       closeTimer := some (t.stc.time + c.ackInterval * 1000) }).withPath p
              { t.path p with
                class2 :=
                  if f ∈ (t.path p).class2 ∨ 64 ≤ (t.path p).class2.length then (t.path p).class2
                  else (t.path p).class2 ++ [f] })

/-- HOLD: the checks in their order, and the hold with its mark cleared (R125).  What the taking leaves ready to be sent is
begun at its end by `afterEvent` (log entry 4). -/
def Obligations.HoldSetsTheHold : Prop :=
  ∀ (tag h d : Nat) (s : State), (Instr.hold tag h d).wellFormed = true → s.ready →
    match (if h < 256 then s.conv h else none) with
    | none => RepliesWith (.hold tag h d) s tag 3 .badHandle [] s.hunting
    | some c =>
        if c.state = .lapsed then RepliesWith (.hold tag h d) s tag 3 .wrongState [] s.hunting
        else if d < 1 ∨ 60000 < d then RepliesWith (.hold tag h d) s tag 3 .badValue [] s.hunting
        else
          RepliesWith (.hold tag h d) s tag 3 .done []
            (s.hunting.withConv h { c with hold := some (s.stc.time + d * 1000), holdExpired := false })

/-- RELEASE, decided by the hold and the hold expired mark (R127).  What the taking leaves ready to be sent is begun at its
end by `afterEvent` (log entry 4). -/
def Obligations.ReleaseIsDecidedByTheHold : Prop :=
  ∀ (tag h : Nat) (s : State), (Instr.release tag h).wellFormed = true → s.ready →
    match (if h < 256 then s.conv h else none) with
    | none => RepliesWith (.release tag h) s tag 4 .badHandle [] s.hunting
    | some c =>
        if c.hold ≠ none then
          if c.state = .withheld then
            RepliesWith (.release tag h) s tag 4 .done [] (enterQueue h (s.hunting.withConv h { c with hold := none }))
          else RepliesWith (.release tag h) s tag 4 .done [] (s.hunting.withConv h { c with hold := none })
        else if c.holdExpired = true then RepliesWith (.release tag h) s tag 4 .expired [] s.hunting
        else RepliesWith (.release tag h) s tag 4 .notHeld [] s.hunting

/-- SHIFT: the checks, and what each admitted state does (R149).  What the taking leaves ready to be sent is begun at its end
by `afterEvent` (log entry 4). -/
def Obligations.ShiftForcesAShift : Prop :=
  ∀ (tag h : Nat) (target : Option Nat) (s : State), (Instr.shift tag h target).wellFormed = true → s.ready →
    match (if h < 256 then s.conv h else none) with
    | none => RepliesWith (.shift tag h target) s tag 5 .badHandle [] s.hunting
    | some c =>
        if ∃ n, target = some n ∧ 3 < n then RepliesWith (.shift tag h target) s tag 5 .badValue [] s.hunting
        else if c.state = .shiftQueued ∨ c.state = .shifting then
          RepliesWith (.shift tag h target) s tag 5 .busy [] s.hunting
        else if c.state = .opening ∨ c.state = .lapsed then
          RepliesWith (.shift tag h target) s tag 5 .wrongState [] s.hunting
        else if c.state = .carrying then
          RepliesWith (.shift tag h target) s tag 5 .accepted []
            (shiftCause false h (s.hunting.withConv h { c with forced := target.bind Path.ofNum }))
        else if c.state = .withheld then
          RepliesWith (.shift tag h target) s tag 5 .accepted []
            (enterQueue h (s.hunting.withConv h { c with forced := target.bind Path.ofNum }))
        else
          RepliesWith (.shift tag h target) s tag 5 .accepted []
            (enterQueue h (s.hunting.withConv h { c with forced := target.bind Path.ofNum, parkStart := none }))

/-- RESTAGE (R147): staged, and applied at once at a quiet point; and what a preference list is: 1 to 4 paths, each 0 to 3,
none repeated, in their order.  At a quiet point a staged list becomes the preference list and STAGED-APPLIED is raised; the
conversation carries on if its active path stands in the new list, and takes an automatic shift cause if not; without a
staged list, with a SENT record, or in another state nothing changes (R148). -/
def Obligations.RestageStagesTheList : Prop :=
  (∀ (l : List Nat) (ps : List Path),
    preferenceList l = some ps ↔ (1 ≤ l.length ∧ l.length ≤ 4 ∧ l.Nodup ∧ ps.map Path.num = l)) ∧
  (∀ (tag h : Nat) (list : List Nat) (s : State), (Instr.restage tag h list).wellFormed = true → s.ready →
    match (if h < 256 then s.conv h else none) with
    | none => RepliesWith (.restage tag h list) s tag 6 .badHandle [] s.hunting
    | some c =>
        if c.state = .lapsed then RepliesWith (.restage tag h list) s tag 6 .wrongState [] s.hunting
        else
          match preferenceList list with
          | none => RepliesWith (.restage tag h list) s tag 6 .badList [] s.hunting
          | some l =>
              if c.state = .carrying ∧ hasSent c.journal = false then
                RepliesWith (.restage tag h list) s tag 6 .done []
                  (quietPoint h (s.hunting.withConv h { c with staged := some l }))
              else RepliesWith (.restage tag h list) s tag 6 .done [] (s.hunting.withConv h { c with staged := some l })) ∧
  ∀ (h : Nat) (c : Conv) (t : State), t.conv h = some c →
    ((c.state ≠ .carrying ∨ hasSent c.journal = true ∨ c.staged = none) → quietPoint h t = t) ∧
    (c.state = .carrying → hasSent c.journal = false → ∀ l p, c.staged = some l → c.active = some p →
      ∀ u, u = raiseConv h .stagedApplied (t.withConv h { c with prefs := l, staged := none }) →
        (p ∈ l → quietPoint h t = u) ∧ (p ∉ l → quietPoint h t = shiftCause true h u))

/-- CLEAR RETURNED: the checks, the record removed, and its cell at the tail of the free list (R27, R50).  What the taking
leaves ready to be sent is begun at its end by `afterEvent` (log entry 4). -/
def Obligations.ClearReturnedRemovesTheRecord : Prop :=
  ∀ (tag h q : Nat) (s : State), (Instr.clearReturned tag h q).wellFormed = true → s.ready →
    match (if h < 256 then s.conv h else none) with
    | none => RepliesWith (.clearReturned tag h q) s tag 7 .badHandle [] s.hunting
    | some c =>
        if q = 0 then RepliesWith (.clearReturned tag h q) s tag 7 .badValue [] s.hunting
        else
          match c.journal.find? (fun r => decide (r.seq = q) && decide (r.status = .returned)) with
          | none => RepliesWith (.clearReturned tag h q) s tag 7 .wrongState [] s.hunting
          | some r =>
              RepliesWith (.clearReturned tag h q) s tag 7 .done []
                { s.hunting with
                  convs := KMap.set s.convs h
                    { c with journal :=
                        c.journal.eraseP fun x => decide (x.seq = q) && decide (x.status = .returned) }
                  rts := { cells := KMap.erase s.rts.cells r.cell, free := s.rts.free ++ [r.cell] } }

/-- The reading requests change nothing but the parser's state and the reply queue, and answer DONE with values read at the
taking, in the order and the encodings of R159; a handle, slot or path out of range is BAD-HANDLE (R24, R51, R91, R112).  The
octets of a VACANT record are log entry 33, the two octets of a rotation point log entry 19, the ascending order of the
members of a set log entry 18, and what the end of a taking begins log entry 4. -/
def Obligations.ReadingChangesNothing : Prop :=
  ∀ (tag : Nat) (s : State), tag < 256 → s.ready →
    (∀ h, h < 65536 →
      (match (if h < 256 then some (s.conv h) else none) with
       | none => RepliesWith (.readConversation tag h) s tag 8 .badHandle [] s.hunting
       | some none => RepliesWith (.readConversation tag h) s tag 8 .done (1#8 :: List.replicate 64 0#8) s.hunting
       | some (some c) =>
           RepliesWith (.readConversation tag h) s tag 8 .done
             (octetsOf 1 (codeOfState (some c.state)) ++ octetsOf 1 c.peer ++ octetsOfOptNum 2 c.peerHandle ++
               octetsOf 1 (codeOfRole c.role) ++ octetsOfPaths c.prefs ++ octetsOfOpt octetsOfPaths c.staged ++
               octetsOfOpt octetsOfPath c.active ++ octetsOfOpt octetsOfPath c.forced ++
               octetsOfOpt (fun a => octetsOfPath a.1 ++ octetsOf 1 a.2) c.openAttempt ++ octetsOf 1 c.cap ++
               octetsOf 2 c.ackInterval ++ octetsOf 1 c.retryLimit ++ octetsOf 2 c.holdOff ++
               octetsOf 4 (c.nextSeq.getD 0) ++ octetsOf 4 c.settled ++ octetsOf 4 c.sendShift ++
               octetsOf 1 c.retryCount ++ octetsOf 4 c.received ++ octetsOf 4 c.delivered ++ octetsOf 4 c.inShift ++
               octetsOfOpt octetsOfPath c.ackPath ++ octetsOf 1 (codeOfClose c.closeStage) ++
               octetsOfBool c.farClosed ++ octetsOfOptNum 8 c.hold ++ octetsOfBool c.holdExpired ++
               octetsOfOpt (fun r => octetsOf 1 (codeOfLapse r)) c.lapseReason ++ octetsOfOptNum 8 c.parkStart ++
               octetsOf 2 c.shiftCount ++
               (octetsOf 2 c.journal.length ++
                 octetsOf 2 (c.journal.filter fun r => decide (r.status = .waiting)).length ++
                 octetsOf 2 (c.journal.filter fun r => decide (r.status = .sent)).length ++
                 octetsOf 2 (c.journal.filter fun r => decide (r.status = .returned)).length ++
                 octetsOf 2 (c.journal.filter fun r => decide (r.status = .unsure)).length ++
                 octetsOfBool (decide (c.ackTimer ≠ .stopped)) ++ octetsOfBool c.waitPause.isSome ++
                 octetsOfBool c.openTimer.isSome ++ octetsOfBool c.closeTimer.isSome ++
                 octetsOf 2 (s.dlq.entries.filter fun e => decide (e.handle = h)).length))
             s.hunting) ∧
      (match (if h < 256 then s.conv h else none) with
       | none => RepliesWith (.readJournal tag h) s tag 9 .badHandle [] s.hunting
       | some c =>
           RepliesWith (.readJournal tag h) s tag 9 .done
             (octetsOf 1 (codeOfState (some c.state)) ++ octetsOfNextSeq c.nextSeq ++ octetsOf 4 c.settled ++
               octetsOf 1 c.retryCount ++ octetsOf 1 (codeOfAckTimer c.ackTimer) ++ octetsOfBool c.waitPause.isSome ++
               octetsOfOptNum 4 (match c.ackTimer with | .inquiry _ v _ => some v | _ => none) ++
               octetsOf 1 c.journal.length ++
               c.journal.flatMap fun r =>
                 octetsOf 4 r.seq ++ octetsOf 1 (codeOfKind r.kind) ++ octetsOf 1 (codeOfStatus r.status) ++
                   octetsOf 2 r.length ++ octetsOfOptNum 4 r.sentShift)
             s.hunting)) ∧
    (∀ k, k < 256 →
      match (if k < 32 then some (s.peer k) else none) with
      | none => RepliesWith (.readPeer tag k) s tag 13 .badHandle [] s.hunting
      | some none => RepliesWith (.readPeer tag k) s tag 13 .done [0#8] s.hunting
      | some (some e) =>
          RepliesWith (.readPeer tag k) s tag 13 .done
            (octetsOfBool true ++ octetsOf 2 e.node ++
              Path.all.flatMap (fun p =>
                octetsOfOpt (fun x => octetsOf 6 x.toNat) (e.links.get p).link ++
                  octetsOf 1 (codeOfReach (e.links.get p).reach) ++ octetsOf 1 (e.links.get p).miss ++
                  octetsOfBool (e.links.get p).heard ++ octetsOfOptNum 8 (e.links.get p).lastHeard) ++
              octetsOfBool e.admission ++ octetsOfOpt octetsOfPaths e.admitList ++ octetsOf 1 e.cap ++
              octetsOf 2 e.ackInterval ++ octetsOf 1 e.retryLimit ++ octetsOf 2 e.holdOff ++
              octetsOf 2 (s.handles.filter fun h => decide ((s.conv h).map Conv.peer = some k)).length ++
              Path.all.flatMap (fun p => octetsOfBool (s.prt.rounds.get p).isSome))
            s.hunting) ∧
    ∀ n, n < 256 →
      match Path.ofNum n with
      | none => RepliesWith (.readPath tag n) s tag 18 .badHandle [] s.hunting
      | some p =>
          ∀ r, r = s.path p →
            RepliesWith (.readPath tag n) s tag 18 .done
              (octetsOf 1 (codeOfPathState r.state) ++ octetsOf 1 r.score ++ octetsOfCause r.cause ++
                octetsOfLine r.lineUp ++ octetsOf 8 r.lineTime ++ octetsOfAlarm r.alarm ++ octetsOf 8 r.alarmTime ++
                (octetsOf 2 r.sampleInterval ++ octetsOfBool r.lineFilter ++ octetsOfBool r.alarmFilter ++
                  octetsOf 2 r.settleTime ++ octetsOf 2 r.probeInterval ++ octetsOf 1 r.missLimit ++
                  octetsOfList (r.sources.map codeOfSource) ++ octetsOfPaths r.companions ++
                  octetsOfBool r.autoRevive) ++
                octetsOfOptNum 8 r.settleTimer ++ octetsOf 2 r.class1.length ++ octetsOf 2 r.class2.length ++
                octetsOf 2 r.class3.length ++ octetsOf 2 r.class4.length ++ octetsOfBool r.tx.isSome ++
                octetsOf 2 r.rotation ++
                octetsOf 2 (s.handles.filter fun h => (s.conv h).any fun c => decide (c.active = some p)).length)
              s.hunting

/-- SCAN: values out of range are BAD-VALUE; otherwise it reports, in walk order, handles of records in use in the filtered
states, at most the count and none twice, with the continue handle, and changes nothing (R25).  None is left out: a matching
handle of the walk is reported, or the walk stopped at its count before it.  A summary is in the octets of R159; the continue
handle is the next one in the direction after the last reported, when the count was reached and that was not 255 upward or 0
downward.  What the taking leaves ready to be sent is begun at its end by `afterEvent` (log entry 4). -/
def Obligations.ScanReportsMatchingHandlesInOrder : Prop :=
  ∀ (tag start count dir : Nat) (filter : List Nat) (s : State),
    (Instr.scan tag start count dir filter).wellFormed = true → s.ready →
    if start ≤ 255 ∧ 1 ≤ count ∧ count ≤ 16 ∧ (dir = 1 ∨ dir = 2) ∧ filter ≠ [] ∧ ∀ c ∈ filter, 2 ≤ c ∧ c ≤ 8 then
      ∃ found, found = ((scanWalk start dir).filter (s.scanMatch filter)).take count ∧
        found.length ≤ count ∧
        (∀ h ∈ found, h < 256 ∧ (if dir = 1 then start ≤ h else h ≤ start) ∧
          ∃ c, s.conv h = some c ∧ codeOfState (some c.state) ∈ filter) ∧
        found.Pairwise (fun a b => if dir = 1 then a < b else b < a) ∧
        (∀ h c, h < 256 → (if dir = 1 then start ≤ h else h ≤ start) → s.conv h = some c →
          codeOfState (some c.state) ∈ filter →
          h ∈ found ∨ found.length = count ∧ ∀ x ∈ found, if dir = 1 then x < h else h < x) ∧
        RepliesWith (.scan tag start count dir filter) s tag 10 .done
          (octetsOf 1 found.length ++
            found.flatMap (fun h => ((s.conv h).map fun c =>
              octetsOf 2 h ++ octetsOf 1 (codeOfState (some c.state)) ++ octetsOf 1 c.peer ++
                octetsOfOpt (fun p => octetsOf 1 p.num) c.active ++ octetsOf 1 (codeOfClose c.closeStage) ++
                octetsOf 2 c.journal.length ++ octetsOf 2 c.shiftCount ++
                octetsOfOpt (fun r => octetsOf 1 (codeOfLapse r)) c.lapseReason).getD []) ++
            octetsOfOptNum 2
              (if found.length = count then
                found.getLast?.bind fun x =>
                  if dir = 1 then (if x < 255 then some (x + 1) else none)
                  else if x = 0 then none else some (x - 1)
              else none))
          s.hunting
    else RepliesWith (.scan tag start count dir filter) s tag 10 .badValue [] s.hunting

/-- READ STATION: the fields of Table 11-1 and station time, as they stand at the taking (R183).  The mask's ascending order is
log entry 18, station time reduced to its 64 bits log entry 8, and what the end of a taking begins log entry 4. -/
def Obligations.ReadStationReportsTheStationFields : Prop :=
  ∀ (tag : Nat) (s : State), tag < 256 → s.ready →
    RepliesWith (.readStation tag) s tag 20 .done
      (octetsOf 2 s.stc.nodeId ++ octetsOf 2 s.stc.frameType ++ octetsOf 2 s.stc.inquiryTimeout ++
        octetsOf 2 s.stc.openTimeout ++ octetsOf 2 s.stc.parkLimit ++ octetsOfReasons s.ntu.mask ++
        octetsOf 1 (codeOfStart s.ntu.startKind) ++ octetsOf 8 s.stc.time) s.hunting

/-- ADD PEER: the checks in their order, the lowest slot not present, and the new entry (R110).  What the checks accept: an
admission list of 1 to 4 paths, none repeated, and with none given the paths with a link address in ascending order, which is
refused with the flag ON if empty; link addresses neither all zero nor of a group, whose mark is the lowest-order bit of the
first octet; a flag ON or OFF; the four admission values in their ranges of Table 6-1. -/
def Obligations.AddPeerIsCheckedAndAccepted : Prop :=
  (∀ a : AddPeerArgs,
    (addPeerValuesOk a = true ↔
      (∀ p x, a.links.get p = some x → x ≠ 0#48 ∧ x.getLsbD 40 = false) ∧ (∀ v ∈ a.flag, v = 0 ∨ v = 1) ∧
        (∀ v ∈ a.cap, 1 ≤ v ∧ v ≤ 64) ∧ (∀ v ∈ a.ackInterval, 10 ≤ v ∧ v ≤ 2000) ∧ (∀ v ∈ a.retryLimit, v ≤ 7) ∧
        ∀ v ∈ a.holdOff, v ≤ 250) ∧
    (∀ l, a.list = some l →
      (admissionList a = none ↔ ¬ (1 ≤ l.length ∧ l.length ≤ 4 ∧ l.Nodup ∧ ∀ n ∈ l, n ≤ 3)) ∧
      ∀ r, admissionList a = some r → ∃ ps, r = some ps ∧ ps.map Path.num = l) ∧
    ∀ d, a.list = none → d = Path.all.filter (fun p => (a.links.get p).isSome) →
      (d = [] → a.flag = some 1 → admissionList a = none) ∧ (d = [] → a.flag ≠ some 1 → admissionList a = some none) ∧
        (d ≠ [] → admissionList a = some (some d))) ∧
  ∀ (tag : Nat) (a : AddPeerArgs) (s : State), (Instr.addPeer tag a).wellFormed = true → s.ready →
    match (List.range 32).find? (fun k => (s.peer k).isNone) with
    | none => RepliesWith (.addPeer tag a) s tag 11 .noRoom [] s.hunting
    | some k =>
        ((a.node < 1 ∨ 65534 < a.node ∨ a.node = s.stc.nodeId ∨ ∃ j e, s.peer j = some e ∧ e.node = a.node) →
          RepliesWith (.addPeer tag a) s tag 11 .badValue [] s.hunting) ∧
        (1 ≤ a.node → a.node ≤ 65534 → a.node ≠ s.stc.nodeId → (∀ j e, s.peer j = some e → e.node ≠ a.node) →
          match admissionList a with
          | none => RepliesWith (.addPeer tag a) s tag 11 .badList [] s.hunting
          | some list =>
              if addPeerValuesOk a = false then RepliesWith (.addPeer tag a) s tag 11 .badValue [] s.hunting
              else
                ∃ e : Peer,
                  RepliesWith (.addPeer tag a) s tag 11 .done (octetsOf 1 k)
                    { s.hunting with prt := { s.prt with peers := KMap.set s.prt.peers k e } } ∧
                  e.node = a.node ∧
                  (∀ p, e.links.get p =
                    { link := a.links.get p, reach := .unknown, miss := 0, heard := false, lastHeard := none }) ∧
                  e.admission = decide (a.flag = some 1) ∧ e.admitList = list ∧ e.cap = a.cap.getD 16 ∧
                  e.ackInterval = a.ackInterval.getD 100 ∧ e.retryLimit = a.retryLimit.getD 2 ∧
                  e.holdOff = a.holdOff.getD 20)

/-- REMOVE PEER: the refusals, and an entry that is gone with its pending reasons (R111).  Before that the queued PROBE
frames for its node leave class 3 of every port, every other frame staying, and for P0 to P3 in turn, where the entry had a
link address and was not UNREACHABLE, the PEER-ALL condition is tested over the entries that remain; a path it does not
quench stands, and so do the other entries, the round timers, the cells, the delivery queue and the host link. -/
def Obligations.RemovePeerRemovesAnUnusedEntry : Prop :=
  (∀ (tag k : Nat) (s : State), (Instr.removePeer tag k).wellFormed = true → s.ready →
    (32 ≤ k → RepliesWith (.removePeer tag k) s tag 12 .badHandle [] s.hunting) ∧
    (k < 32 → s.peer k = none → RepliesWith (.removePeer tag k) s tag 12 .noPeer [] s.hunting) ∧
    (k < 32 → s.peer k ≠ none → (∃ h c, s.conv h = some c ∧ c.peer = k) →
      RepliesWith (.removePeer tag k) s tag 12 .inUse [] s.hunting) ∧
    (k < 32 → s.peer k ≠ none → (∀ h c, s.conv h = some c → c.peer ≠ k) →
      ∃ t, RepliesWith (.removePeer tag k) s tag 12 .done [] t ∧ t.peer k = none ∧ reasonsAt t.ntu.peers k = [] ∧
        t.stc = s.stc)) ∧
  ∀ (tag k : Nat) (s : State) (e : Peer), (Instr.removePeer tag k).wellFormed = true → s.ready → k < 32 →
    s.peer k = some e → (∀ h c, s.conv h = some c → c.peer ≠ k) →
    ∃ u0 u1 u2 u3 u4, u0 = { s.hunting with paths := s.paths.map fun r =>
          { r with class3 := r.class3.filter fun f => decide (f.dstNode ≠ e.node) } } ∧
      (∀ p x y, (p, x, y) ∈ [(Path.p0, u0, u1), (.p1, u1, u2), (.p2, u2, u3), (.p3, u3, u4)] →
        ((e.links.get p).link ≠ none → (e.links.get p).reach ≠ .unreachable →
          PeerAllTested p (fun j => j ≠ k) x y) ∧
        (((e.links.get p).link = none ∨ (e.links.get p).reach = .unreachable) → y = x)) ∧
      u4.prt = s.prt ∧ u4.rts = s.rts ∧ u4.dlq = s.dlq ∧ u4.stc = s.stc ∧ u4.hlu = s.hunting.hlu ∧
      RepliesWith (.removePeer tag k) s tag 12 .done []
        { u4 with
          prt := { s.prt with peers := KMap.erase s.prt.peers k }
          ntu := { u4.ntu with peers := KMap.erase u4.ntu.peers k } }

/-- SET PATH: handle, state, values; the settings present are written and nothing else of the part changes (R89, R107).  What
the value check accepts: each setting present in its range of Table 4-1, no unknown source, and companions that are paths
other than this one.  What is written of an ON or OFF, of the sources and of the companions: the value given, or the old one
where none is. -/
def Obligations.SetPathWritesTheSettings : Prop :=
  (∀ (p : Path) (a : SetPathArgs),
    setPathOk p a = true ↔
      (∀ v ∈ a.sampleInterval, 100 ≤ v ∧ v ≤ 10000) ∧ (∀ v ∈ a.lineFilter, v = 0 ∨ v = 1) ∧
        (∀ v ∈ a.alarmFilter, v = 0 ∨ v = 1) ∧ (∀ v ∈ a.settleTime, 100 ≤ v ∧ v ≤ 60000) ∧
        (∀ v ∈ a.probeInterval, 10 ≤ v ∧ v ≤ 1000) ∧ (∀ v ∈ a.missLimit, 2 ≤ v ∧ v ≤ 15) ∧
        (∀ l ∈ a.sources, ∀ c ∈ l, 1 ≤ c ∧ c ≤ 4) ∧ (∀ l ∈ a.companions, ∀ n ∈ l, n ≤ 3 ∧ n ≠ p.num) ∧
        ∀ v ∈ a.autoRevive, v = 0 ∨ v = 1) ∧
  (∀ (b : Bool) (x : List QuenchSource) (y : List Path),
    onOffOr b none = b ∧ onOffOr b (some 0) = false ∧ onOffOr b (some 1) = true ∧ sourcesOr x none = x ∧
      companionsOr y none = y ∧
      (∀ l, (∀ c ∈ l, 1 ≤ c ∧ c ≤ 4) → ∀ src, src ∈ sourcesOr x (some l) ↔ codeOfSource src ∈ l) ∧
      ∀ l, (∀ n ∈ l, n ≤ 3) → ∀ q, q ∈ companionsOr y (some l) ↔ q.num ∈ l) ∧
  ∀ (tag n : Nat) (a : SetPathArgs) (s : State), (Instr.setPath tag n a).wellFormed = true → s.ready →
    match Path.ofNum n with
    | none => RepliesWith (.setPath tag n a) s tag 14 .badHandle [] s.hunting
    | some p =>
        if (s.path p).state ≠ .down ∧ (s.path p).state ≠ .quenched ∧ (s.path p).state ≠ .drained then
          RepliesWith (.setPath tag n a) s tag 14 .busy [] s.hunting
        else if setPathOk p a = false then RepliesWith (.setPath tag n a) s tag 14 .badValue [] s.hunting
        else
          RepliesWith (.setPath tag n a) s tag 14 .done []
            (s.hunting.withPath p
              { s.path p with
                sampleInterval := a.sampleInterval.getD (s.path p).sampleInterval
                lineFilter := onOffOr (s.path p).lineFilter a.lineFilter
                alarmFilter := onOffOr (s.path p).alarmFilter a.alarmFilter
                settleTime := a.settleTime.getD (s.path p).settleTime
                probeInterval := a.probeInterval.getD (s.path p).probeInterval
                missLimit := a.missLimit.getD (s.path p).missLimit
                sources := sourcesOr (s.path p).sources a.sources
                companions := companionsOr (s.path p).companions a.companions
                autoRevive := onOffOr (s.path p).autoRevive a.autoRevive })

/-- QUENCH, REVIVE and DRAIN are decided by the path's state and, for REVIVE, the cause-present test (R90, R101, R104).  A
quench of a PROVING path that no other path names as companion: QUENCHED with its cause, its score and probe rounds kept, its
settle timer stopped, classes 2 and 4 withdrawn, STATE raised, and nothing else changes (R98, R100).  A quench of any live
path: the same, with the effects of leaving service from SOUND or SUSPECT before STATE (R81), and then COMPANION handed to
each dependent in ascending order, whose own quench runs on in the same way (R98).  A drain: DRAINED with score and cause
kept, the queues emptied, the probe rounds stopped, leaving service if it was in service, STATE, and the release events of a
path that leaves QUENCHED (R90, R106).  A revival that passes the test: cause absent, score 0, and by the line PROVING with
its settle timer, and rounds begun from DRAINED, or DOWN with its queues emptied, and rounds stopped from QUENCHED; then
STATE, and from QUENCHED a release event for each dependent in ascending order (R105, R106).  A release event revives a
QUENCHED path with auto-revive whose cause, not MANUAL or SCORE, has ended and that passes the test, and else does nothing
(R103, R106).  That one dependent's chain ends before the next one's begins is log entry 20, and that a revival into DOWN
empties the queues is log entry 31. -/
def Obligations.QuenchReviveAndDrainAreDecidedByState : Prop :=
  (∀ (tag n : Nat) (s : State), tag < 256 → n < 256 → s.ready →
     match Path.ofNum n with
     | none =>
         RepliesWith (.quench tag n) s tag 15 .badHandle [] s.hunting ∧
           RepliesWith (.revive tag n) s tag 16 .badHandle [] s.hunting ∧
           RepliesWith (.drain tag n) s tag 17 .badHandle [] s.hunting
     | some p =>
         (if (s.path p).state = .proving ∨ (s.path p).state = .sound ∨ (s.path p).state = .suspect then
           RepliesWith (.quench tag n) s tag 15 .done [] (quenchPath p .manual s.hunting)
         else RepliesWith (.quench tag n) s tag 15 .wrongState [] s.hunting) ∧
         (if (s.path p).state ≠ .quenched ∧ (s.path p).state ≠ .drained then
           RepliesWith (.revive tag n) s tag 16 .wrongState [] s.hunting
         else if (.plane ∈ (s.path p).sources ∧ (s.path p).alarm = true) ∨
             (.companion ∈ (s.path p).sources ∧ ∃ q ∈ (s.path p).companions, (s.path q).state = .quenched) ∨
             (.score ∈ (s.path p).sources ∧ (s.path p).score = 255) then
           RepliesWith (.revive tag n) s tag 16 .causePresent [] s.hunting
         else
           RepliesWith (.revive tag n) s tag 16 (if (s.path p).lineUp then .accepted else .done) []
             (revive 4 p s.hunting)) ∧
         if (s.path p).state = .drained then RepliesWith (.drain tag n) s tag 17 .wrongState [] s.hunting
         else RepliesWith (.drain tag n) s tag 17 .done [] (drainPath p s.hunting)) ∧
  (∀ (s : State) (p : Path) (why : Cause), (s.path p).state = .proving →
    (∀ q, q ≠ p → p ∉ (s.path q).companions) →
    quenchPath p why s = raisePath p .state
      (s.withPath p { s.path p with
        state := .quenched, cause := some why, settleTimer := none, class2 := [], class4 := [] })) ∧
  (∀ (s u v : State) (p : Path) (why : Cause), (s.path p).state.live = true →
    u = s.withPath p { s.path p with
      state := .quenched, cause := some why, settleTimer := none, class2 := [], class4 := [] } →
    v = raisePath p .state (if (s.path p).state = .proving then u else leaveService p (s.path p).class4 u) →
    quenchPath p why s =
      (Path.all.filter fun q => decide (p ∈ (v.path q).companions)).foldl
        (fun t q =>
          if .companion ∈ (t.path q).sources ∧ (t.path q).state.live = true then quenchPath q .companion t else t) v) ∧
  (∀ (s : State) (p : Path), ∃ u,
    RoundsStopped p (s.withPath p { (s.path p).emptied with state := .drained, settleTimer := none }) u ∧
    ((s.path p).state.inService = true →
      drainPath p s = raisePath p .state (leaveService p (s.path p).class4 u)) ∧
    ((s.path p).state.inService = false → (s.path p).state ≠ .quenched →
      drainPath p s = raisePath p .state u) ∧
    ((s.path p).state = .quenched →
      drainPath p s =
        (Path.all.filter fun q => decide (p ∈ (u.path q).companions)).foldl (fun t q => releaseEvent q t)
          (raisePath p .state u))) ∧
  (∀ (s : State) (p : Path), ((s.path p).state = .quenched ∨ (s.path p).state = .drained) → s.testPassed p = true →
    ∃ w x,
      ((s.path p).lineUp = true →
        w = s.withPath p { s.path p with
          cause := none, score := 0, state := .proving,
          settleTimer := some (s.stc.time + (s.path p).settleTime * 1000) } ∧
        ((s.path p).state = .drained → x = beginRound p w) ∧ ((s.path p).state = .quenched → x = w)) ∧
      ((s.path p).lineUp = false →
        w = s.withPath p { (s.path p).emptied with cause := none, score := 0, state := .down, settleTimer := none } ∧
        ((s.path p).state = .drained → x = w) ∧ ((s.path p).state = .quenched → RoundsStopped p w x)) ∧
      ((s.path p).state = .drained → revive 4 p s = raisePath p .state x) ∧
      ((s.path p).state = .quenched →
        revive 4 p s =
          (Path.all.filter fun q => decide (p ∈ (x.path q).companions)).foldl (fun t q => releaseEvent q t)
            (raisePath p .state x))) ∧
  ∀ (s : State) (p : Path) (r : PathRec), s.path p = r →
    (s.testPassed p = true ↔
      ¬ (.plane ∈ r.sources ∧ r.alarm = true) ∧
      ¬ (.companion ∈ r.sources ∧ ∃ q ∈ r.companions, (s.path q).state = .quenched) ∧
      ¬ (.score ∈ r.sources ∧ r.score = 255)) ∧
    ∀ ready : Prop,
      (ready ↔ r.autoRevive = true ∧ r.state = .quenched ∧ s.testPassed p = true ∧
        (r.cause = some .plane ∧ r.alarm = false ∨
          r.cause = some .companion ∧ (∀ q ∈ r.companions, (s.path q).state ≠ .quenched) ∨
          r.cause = some .peerAll ∧
            ∃ k e, s.peer k = some e ∧ (e.links.get p).link ≠ none ∧ (e.links.get p).reach = .reachable)) →
      (ready → releaseEvent p s = revive 4 p s) ∧ (¬ ready → releaseEvent p s = s)

/-- SET STATION: no record in use, values in range, node id unlike every peer's; the values present are written (R181).  The
ranges are those of Table 11-1, a frame type value being 0 or 0x0600 to 0xFFFF.  What the taking leaves ready to be sent is
begun at its end by `afterEvent` (log entry 4). -/
def Obligations.SetStationWritesTheStationFields : Prop :=
  (∀ a : SetStationArgs,
    setStationOk a = true ↔
      (∀ v ∈ a.node, v ≤ 65534) ∧ (∀ v ∈ a.frameType, v = 0 ∨ 0x0600 ≤ v ∧ v ≤ 0xFFFF) ∧
        (∀ v ∈ a.inquiryTimeout, 5 ≤ v ∧ v ≤ 500) ∧ (∀ v ∈ a.openTimeout, 20 ≤ v ∧ v ≤ 2000) ∧
        ∀ v ∈ a.parkLimit, v ≤ 3600) ∧
  ∀ (tag : Nat) (a : SetStationArgs) (s : State), (Instr.setStation tag a).wellFormed = true → s.ready →
    ((∃ h c, s.conv h = some c) → RepliesWith (.setStation tag a) s tag 19 .busy [] s.hunting) ∧
    ((∀ h, s.conv h = none) → setStationOk a = false →
      RepliesWith (.setStation tag a) s tag 19 .badValue [] s.hunting) ∧
    ((∀ h, s.conv h = none) → (∃ n k e, a.node = some n ∧ n ≠ 0 ∧ s.peer k = some e ∧ e.node = n) →
      RepliesWith (.setStation tag a) s tag 19 .badValue [] s.hunting) ∧
    ((∀ h, s.conv h = none) → setStationOk a = true →
      (∀ n k e, a.node = some n → n ≠ 0 → s.peer k = some e → e.node ≠ n) →
      RepliesWith (.setStation tag a) s tag 19 .done []
        { s.hunting with stc :=
            { nodeId := a.node.getD s.stc.nodeId
              frameType := a.frameType.getD s.stc.frameType
              inquiryTimeout := a.inquiryTimeout.getD s.stc.inquiryTimeout
              openTimeout := a.openTimeout.getD s.stc.openTimeout
              parkLimit := a.parkLimit.getD s.stc.parkLimit
              time := s.stc.time } })

/-- SET NOTICE MASK: a code outside 1 to 19 is refused, otherwise the mask is the set given and no reason is raised or
cleared (R176).  A set is ready when the mask enables a reason of it; the notice turn goes to the station, else the lowest
path, else the lowest peer slot, else the handle that stands first behind the rotation point, its closing record before its
live set (R177).  The notice built copies the set, masked reasons included, with the values as they stand, or the closing
snapshot; the set is emptied, and a conversation's notice moves the rotation point to its handle (R177, R178). -/
def Obligations.SetNoticeMaskReplacesTheMask : Prop :=
  (∀ (tag : Nat) (codes : List Nat) (s : State), (Instr.setNoticeMask tag codes).wellFormed = true → s.ready →
    if ∃ c ∈ codes, c < 1 ∨ 19 < c then RepliesWith (.setNoticeMask tag codes) s tag 21 .badValue [] s.hunting
    else
      RepliesWith (.setNoticeMask tag codes) s tag 21 .done []
        { s.hunting with ntu := { s.ntu with mask := Reason.all.filter fun r => codes.contains (codeOfReason r) } }) ∧
  (∀ n : Ntu, n.rotation ≤ 255 →
    (n.rings n.station → n.firstReady = some .station) ∧
    (¬ n.rings n.station →
      (∀ p, n.rings (n.paths.get p) → (∀ q, q.num < p.num → ¬ n.rings (n.paths.get q)) →
        n.firstReady = some (.path p)) ∧
      ((∀ p, ¬ n.rings (n.paths.get p)) →
        (∀ k, k < 32 → n.rings (reasonsAt n.peers k) → (∀ j, j < k → ¬ n.rings (reasonsAt n.peers j)) →
          n.firstReady = some (.peer k)) ∧
        ((∀ k, k < 32 → ¬ n.rings (reasonsAt n.peers k)) →
          (∀ h, h < 256 → n.handleRings h → (∀ j, j < 256 → n.handleRings j → n.turnsTo h ≤ n.turnsTo j) →
            (n.closingRings h → n.firstReady = some (.closing h)) ∧
            (¬ n.closingRings h → n.firstReady = some (.conv h))) ∧
          ((∀ h, h < 256 → ¬ n.handleRings h) → n.firstReady = none))))) ∧
  ∀ s : State,
    buildNotice .station s =
      ({ object := .station s.ntu.startKind s.stc.nodeId s.stc.frameType s.stc.time, reasons := s.ntu.station },
       { s with ntu := { s.ntu with station := [] } }) ∧
    (∀ p r, s.path p = r →
      buildNotice (.path p) s =
        ({ object := .path p r.state r.score r.cause r.lineUp r.lineTime r.alarm r.alarmTime,
           reasons := s.ntu.paths.get p },
         { s with ntu := { s.ntu with paths := s.ntu.paths.set p [] } })) ∧
    (∀ k e, s.peer k = some e →
      buildNotice (.peer k) s =
        ({ object := .peer k e.node (e.links.map PeerLink.reach), reasons := reasonsAt s.ntu.peers k },
         { s with ntu := { s.ntu with peers := KMap.erase s.ntu.peers k } })) ∧
    (∀ h z, KMap.get? s.ntu.closing h = some z →
      buildNotice (.closing h) s =
        ({ object := .conversation h z.snapshot, reasons := z.reasons },
         { s with ntu := { s.ntu with closing := KMap.erase s.ntu.closing h, rotation := h } })) ∧
    ∀ h c, s.conv h = some c →
      buildNotice (.conv h) s =
        ({ object := .conversation h
             { state := some c.state, active := c.active, settled := c.settled, nextSeq := c.nextSeq,
               delivered := c.delivered, shiftCount := c.shiftCount,
               returnedCount := (c.journal.filter fun r => decide (r.status = .returned)).length,
               lowestReturned := ((c.journal.filter fun r => decide (r.status = .returned)).head?).map JRec.seq,
               lapseReason := c.lapseReason },
           reasons := reasonsAt s.ntu.convs h },
         { s with ntu := { s.ntu with convs := KMap.erase s.ntu.convs h, rotation := h } })

/-- RESTART of either kind is accepted in every state, marks the restart pending, lowers the accept line, and changes
nothing else at its taking; until its effect no record is taken (R165, R185). -/
def Obligations.RestartIsPendingUntilItsReplyLeaves : Prop :=
  ∀ (tag : Nat) (s : State), tag < 256 → s.ready →
    RepliesWith (.restartCold tag) s tag 22 .done []
      { s.hunting with hlu := { s.hunting.hlu with restart := some .cold } } ∧
    RepliesWith (.restartWarm tag) s tag 22 .done []
      { s.hunting with hlu := { s.hunting.hlu with restart := some .warm } } ∧
    ∀ u : State, u.hlu.restart ≠ none → u.acceptHigh = false ∧ u.canTake = false

/-! ## Completions on the host link -/

/-- The completion of a DELIVER: HEAD removes the head entry, advances delivered-through and requests an ACK unless the
conversation has lapsed; ORPHANED changes no conversation.  The completion of a NOTICE, and of a REPLY with no restart
pending or that is not the RESTART's, frees the link and has no further effect (R60, R61, R171); with nothing in
transmission a completion changes nothing, the model's choice (log entry 6). -/
def Obligations.CompletionsFreeTheLink : Prop :=
  (∀ (s : State) (d : DlqEntry), s.hlu.out = some (.deliver d) →
     (∀ e rest c, s.dlq.tx = .head → s.dlq.entries = e :: rest → s.conv e.handle = some c →
       (c.state = .lapsed →
         exec .deliverCompletion s =
           .next (intakeAll (afterEvent
             { s with hlu := { s.hlu with out := none }
                      dlq := { entries := rest, tx := .none }
                      convs := KMap.set s.convs e.handle { c with delivered := e.seq } }))) ∧
       (c.state ≠ .lapsed →
         exec .deliverCompletion s =
           .next (intakeAll (afterEvent (requestAck e.handle false none
             { s with hlu := { s.hlu with out := none }
                      dlq := { entries := rest, tx := .none }
                      convs := KMap.set s.convs e.handle { c with delivered := e.seq } }))))) ∧
     (s.dlq.tx = .orphaned →
       exec .deliverCompletion s =
         .next (intakeAll (afterEvent
           { s with hlu := { s.hlu with out := none }, dlq := { s.dlq with tx := .none } })))) ∧
  ∀ s : State,
    (∀ n, s.hlu.out = some (.notice n) →
      exec .noticeCompletion s = .next (intakeAll (afterEvent { s with hlu := { s.hlu with out := none } }))) ∧
    (∀ r, s.hlu.out = some (.reply r) → (s.hlu.restart = none ∨ r.code ≠ 22) →
      exec .replyCompletion s = .next (intakeAll (afterEvent { s with hlu := { s.hlu with out := none } }))) ∧
    (s.hlu.out = none → exec .replyCompletion s = .next s ∧ exec .deliverCompletion s = .next s ∧
      exec .noticeCompletion s = .next s)

/-- A pending COLD restart takes effect at the completion of its reply: every block at its cold values, station time
running on, a frame in transmission kept to its completion, which empties the queues of its port (R26, R52, R69, R92, R108, R122, R150, R172, R179, R186). -/
def Obligations.AColdRestartClearsThePart : Prop :=
  ∀ (s : State) (r : Reply), s.hlu.out = some (.reply r) → s.hlu.restart = some .cold → r.code = 22 →
    r.result = .done →
    ∃ t, exec .replyCompletion s = .next (intakeAll (afterEvent t)) ∧ t.pending = s.pending ∧ t.convs = [] ∧
      t.rts.free = List.range 1024 ∧ t.dlq.entries = [] ∧ t.dlq.tx = .none ∧ t.she.queue = [] ∧ t.she.slots = [] ∧
      t.prt.peers = [] ∧ (∀ p, t.prt.rounds.get p = none) ∧ t.hlu = State.reset.hlu ∧
      t.stc = { State.reset.stc with time := s.stc.time } ∧ t.ntu = { State.reset.ntu with startKind := .cold } ∧
      ∀ p, (t.path p).tx = (s.path p).tx ∧
        { (t.path p).emptied with tx := none, flush := false } =
          { State.reset.path p with
            lineTime := s.stc.time, lineSampled := s.stc.time, alarmTime := s.stc.time,
            alarmSampled := s.stc.time } ∧
        ((s.path p).tx = none → (t.path p).queued = [] ∧ (t.path p).flush = false) ∧
        ((s.path p).tx ≠ none → (t.path p).flush = true)

/-- A pending WARM restart takes effect at the completion of its reply: conversations parked or lapsed by their state,
journals, cells, settings, peers and mask kept, the rest at its warm values: of a path its settings alone are kept, a free
port's queues are empty, and a port with a frame in transmission keeps that frame and empties its queues at the completion;
of a peer entry all is kept but reachability, miss count and heard mark (R26, R52, R70, R92, R108, R122, R150, R172, R179,
R186).  What stands queued on such a port until the completion is log entry 16. -/
def Obligations.AWarmRestartParksTheConversations : Prop :=
  ∀ (s : State) (r : Reply), s.hlu.out = some (.reply r) → s.hlu.restart = some .warm → r.code = 22 →
    r.result = .done →
    ∃ t, exec .replyCompletion s = .next (intakeAll (afterEvent t)) ∧ t.pending = s.pending ∧ t.rts = s.rts ∧
      t.dlq.entries = [] ∧ t.dlq.tx = .none ∧ t.she.queue = [] ∧ t.she.slots = [] ∧ t.stc = s.stc ∧
      t.hlu = State.reset.hlu ∧ t.ntu = { State.reset.ntu with startKind := .warm, mask := s.ntu.mask } ∧
      (∀ h, s.conv h = none → t.conv h = none) ∧
      (∀ h c, s.conv h = some c → ∃ d, t.conv h = some d ∧
        d.state = (match c.state with | .opening => .lapsed | .lapsed => .lapsed | _ => .parked) ∧
        d.parkStart = (match c.state with
          | .opening => none | .lapsed => c.parkStart | .parked => c.parkStart | _ => some s.stc.time) ∧
        d.lapseReason = (if c.state = .opening then some .restartInOpening else c.lapseReason) ∧
        d.journal = (if c.state = .opening then makeUnsure c.journal else c.journal) ∧
        d.received = c.delivered ∧ d.delivered = c.delivered ∧ d.retryCount = 0 ∧ d.ackTimer = .stopped ∧
        d.waitPause = none ∧ d.openTimer = none ∧ d.closeTimer = none ∧ d.hold = none ∧ d.holdExpired = false ∧
        d.active = none ∧ d.forced = none ∧ d.openAttempt = none ∧ d.ackPath = none ∧
        d.closeStage = (if c.closeStage = .closeSent then .draining else c.closeStage) ∧
        d.peer = c.peer ∧ d.peerHandle = c.peerHandle ∧ d.role = c.role ∧ d.prefs = c.prefs ∧ d.staged = c.staged ∧
        d.nextSeq = c.nextSeq ∧ d.settled = c.settled ∧ d.sendShift = c.sendShift ∧ d.inShift = c.inShift ∧
        d.farClosed = c.farClosed ∧ d.shiftCount = c.shiftCount ∧ d.cap = c.cap ∧ d.ackInterval = c.ackInterval ∧
        d.retryLimit = c.retryLimit ∧ d.holdOff = c.holdOff) ∧ (∀ p, t.prt.rounds.get p = none) ∧
      (∀ k, s.peer k = none → t.peer k = none) ∧
      (∀ k e, s.peer k = some e → ∃ f, t.peer k = some f ∧ { f with links := e.links } = e ∧
        ∀ p, f.links.get p = { e.links.get p with reach := .unknown, miss := 0, heard := false }) ∧
      ∀ p, (t.path p).tx = (s.path p).tx ∧
        (t.path p).state = .down ∧ (t.path p).score = 0 ∧ (t.path p).cause = none ∧ (t.path p).settleTimer = none ∧
        (t.path p).lineUp = false ∧ (t.path p).lineRun = 0 ∧ (t.path p).lineRunTime = none ∧
        (t.path p).lineTime = s.stc.time ∧ (t.path p).lineSampled = s.stc.time ∧
        (t.path p).alarm = false ∧ (t.path p).alarmRun = 0 ∧ (t.path p).alarmRunTime = none ∧
        (t.path p).alarmTime = s.stc.time ∧ (t.path p).alarmSampled = s.stc.time ∧ (t.path p).rotation = 255 ∧
        (t.path p).sources = (s.path p).sources ∧
        (t.path p).sampleInterval = (s.path p).sampleInterval ∧ (t.path p).companions = (s.path p).companions ∧
        (t.path p).lineFilter = (s.path p).lineFilter ∧ (t.path p).alarmFilter = (s.path p).alarmFilter ∧
        (t.path p).settleTime = (s.path p).settleTime ∧ (t.path p).probeInterval = (s.path p).probeInterval ∧
        (t.path p).missLimit = (s.path p).missLimit ∧ (t.path p).autoRevive = (s.path p).autoRevive ∧
        ((s.path p).tx = none → (t.path p).queued = [] ∧ (t.path p).flush = false) ∧
        ((s.path p).tx ≠ none → (t.path p).flush = true ∧
          (t.path p).class1 = (s.path p).class1.filter (fun g => g.body.isOpenReply) ∧
          (t.path p).class2 = (s.path p).class2 ∧ (t.path p).class3 = [] ∧ (t.path p).class4 = [])

/-! ## Frames received -/

/-- The reception checks decide in their order: the MAC's address, the FCS, the type value, the format with its 4 points, the
destination; a frame on a DOWN or DRAINED path is discarded without effect.  A frame given by its octets to the port's own
address with a wrong FCS, or with the station's type and a format failure, raises the score by 4 and does nothing else; to
another address it has no effect (R83, R84, R151, R154).  That a string of fewer than 18 octets has a wrong FCS is log entry
22, and that the port's address at node id 0 is the formula's value is log entry 24: both are the model's reading.  The sender
of a frame is the present entry of its source node, if that has a link address on the arrival path; a frame of any kind
without a sender changes no entry, no record and no queue, but that an ANSWER on a live path lowers the score of its port
(R12, R53, R84, R109, R120).  The address of port p is 0A-00-00-pp-hh-ll (R151). -/
def Obligations.ReceptionChecksDecideInTheirOrder : Prop :=
  (∀ n : Nat, n < 65536 → portAddr .p0 n = 0x0A0000000000#48 + BitVec.ofNat 48 n ∧
    portAddr .p1 n = 0x0A0000010000#48 + BitVec.ofNat 48 n ∧ portAddr .p2 n = 0x0A0000020000#48 + BitVec.ofNat 48 n ∧
    portAddr .p3 n = 0x0A0000030000#48 + BitVec.ofNat 48 n) ∧
  (∀ (s : State) (p : Path) (n : Nat),
     (s.senderOn p n = none ↔ ∀ k e, s.peer k = some e → e.node = n → (e.links.get p).link = none) ∧
     ∀ k, s.senderOn p n = some k → ∃ e a, s.peer k = some e ∧ e.node = n ∧ (e.links.get p).link = some a) ∧
  (∀ (s : State) (p : Path) (hd : RxHead) (b : RxBody) (f : RxFrame), PassesChecks s p hd →
     formatCheck hd b = some f → s.senderOn p hd.srcNode = none →
     ((∃ o v d, f.body = .answer o v d) → (s.path p).state.live = true →
       Takes (arrival p hd b) s (lowerScore p s)) ∧
     (((∀ o v d, f.body ≠ .answer o v d) ∨ (s.path p).state.live = false) → Takes (arrival p hd b) s s)) ∧
  (∀ (p : Path) (hd : RxHead) (b : RxBody) (s : State),
     (hd.etherDst ≠ portAddr p s.stc.nodeId → receive p hd b s = s) ∧
     (s.stc.frameType = 0 ∨ hd.etherType ≠ s.stc.frameType → receive p hd b s = s) ∧
     (hd.etherDst = portAddr p s.stc.nodeId → s.stc.frameType ≠ 0 → hd.etherType = s.stc.frameType →
       (formatCheck hd b = none → receive p hd b s = addScore p 4 s) ∧
       (formatCheck hd b ≠ none → s.stc.nodeId = 0 ∨ hd.dstNode ≠ s.stc.nodeId → receive p hd b s = s) ∧
       (formatCheck hd b ≠ none → (s.path p).state = .down ∨ (s.path p).state = .drained → receive p hd b s = s))) ∧
  ∀ (p : Path) (l : List Byte) (s : State), s.inReset = false →
    (etherDstOfOctets l = portAddr p s.stc.nodeId → fcsOk l = false →
      Takes (.frameCheckFailure p l) s (addScore p 4 s)) ∧
    (etherDstOfOctets l = portAddr p s.stc.nodeId → fcsOk l = true → s.stc.frameType ≠ 0 →
      typeOfOctets l = s.stc.frameType → fieldsOfOctets l = none →
      Takes (.frameCheckFailure p l) s (addScore p 4 s)) ∧
    (etherDstOfOctets l ≠ portAddr p s.stc.nodeId → Takes (.frameCheckFailure p l) s s)

/-- Every frame the part sends reads back as itself: its FCS is right, and its octets give its type, its nodes, its
handles, its shift number and its body (R151 to R154). -/
def Obligations.ASentFrameReadsBackAsItself : Prop :=
  ∀ f : TxFrame, f.etherType < 65536 → 1 ≤ f.srcNode → f.srcNode ≤ 65534 → f.dstNode < 65536 →
    (∀ h ∈ f.srcHandle, h < 256) → (∀ h ∈ f.dstHandle, h < 256) → f.shift ≤ 4294967295 →
    f.srcHandle.isSome = srcHandlePresent f.body → f.dstHandle.isSome = dstHandlePresent f.body →
    (match f.body with
     | .data q _ pl => 1 ≤ q ∧ q ≤ 4294967295 ∧ 1 ≤ pl.length ∧ pl.length ≤ 512
     | .ack d => d ≤ 4294967295
     | .wait d => d ≤ 4294967295
     | .inquiry v => ∀ x ∈ v, 1 ≤ x ∧ x ≤ 4294967295
     | .answer _ v d => (∀ x ∈ v, 1 ≤ x ∧ x ≤ 4294967295) ∧ d ≤ 4294967295
     | .close x => x ≤ 4294967295
     | .closeReply x => x ≤ 4294967295
     | _ => True) →
    fcsOk f.octets = true ∧ typeOfOctets f.octets = f.etherType ∧ etherDstOfOctets f.octets = f.etherDst ∧
      ∃ hd b, fieldsOfOctets f.octets = some (hd, b) ∧ hd.etherDst = f.etherDst ∧ hd.etherSrc = f.etherSrc ∧
        hd.dstNode = f.dstNode ∧
        formatCheck hd b =
          some { srcNode := f.srcNode, srcHandle := f.srcHandle, dstHandle := f.dstHandle, shift := f.shift,
                 body := f.body }

/-- Hearing a frame on a live path: the sender's entry becomes heard, with miss count 0, last heard now and REACHABLE, and
only that entry changes in the table; one already REACHABLE changes nothing else, one that was not raises REACHABILITY.  A
PROBE is heard and draws an ECHO in class 1 while it has room; an ECHO is heard and never answered (R86, R116, R118,
R120).  On a QUENCHED path a frame of every kind is heard in the same way, one that makes its peer REACHABLE being a release
event before REACHABILITY; a PROBE draws its ECHO there, and nothing else happens: the conversation table takes nothing and
no score falls (R53, R84, R118 item 3).  The hearing itself gives no reattach cue: the one cue of a frame on a live path, which
R118 item 2 and R68 share, is given once and after the frame's own rule, as `TakesFrame` says it (log entry 9).  A hearing that has revived the path into DOWN leaves no path for the ECHO (log entry
25). -/
def Obligations.HearingAFrameAndEchoingAProbe : Prop :=
  (∀ (s u : State) (p : Path) (k : Nat) (e : Peer) (a : LinkAddr), s.peer k = some e → (e.links.get p).link = some a →
     u = { s with prt := { s.prt with
       peers := KMap.set s.prt.peers k
         { e with
           links := e.links.set p
             { link := some a, reach := .reachable, miss := 0, heard := true, lastHeard := some s.stc.time } } } } →
     ((e.links.get p).reach = .reachable → hearPeer k p s = u) ∧
     ((e.links.get p).reach ≠ .reachable → (s.path p).state ≠ .quenched →
       hearPeer k p s = raisePeer k .reachability u) ∧
     ((e.links.get p).reach ≠ .reachable → (s.path p).state = .quenched →
       hearPeer k p s = raisePeer k .reachability (releaseEvent p u))) ∧
  (∀ (s u : State) (p : Path) (hd : RxHead) (b : RxBody) (f : RxFrame) (k : Nat) (e : Peer) (a : LinkAddr),
     PassesChecks s p hd → (s.path p).state = .quenched → s.senderOn p hd.srcNode = some k →
     formatCheck hd b = some f → s.peer k = some e → (e.links.get p).link = some a → u = hearPeer k p s →
     (f.body ≠ .probe → Takes (arrival p hd b) s u) ∧
     (f.body = .probe →
       ((u.path p).state ≠ .down → (u.path p).state ≠ .drained →
         Takes (arrival p hd b) s
           (u.withPath p ((u.path p).withAnswer (answerTo e a none none 0 .echo none)))) ∧
       ((u.path p).state = .down ∨ (u.path p).state = .drained → Takes (arrival p hd b) s u))) ∧
  (∀ (s : State) (p : Path) (k : Nat) (e : Peer) (a : LinkAddr), (s.path p).state.live = true → s.peer k = some e →
     (e.links.get p).link = some a →
     (hearPeer k p s).prt =
       { s.prt with
         peers := KMap.set s.prt.peers k
           { e with
             links := e.links.set p
               { link := some a, reach := .reachable, miss := 0, heard := true, lastHeard := some s.stc.time } } } ∧
     ((e.links.get p).reach = .reachable → hearPeer k p s = { s with prt := (hearPeer k p s).prt }) ∧
     ((e.links.get p).reach ≠ .reachable → .reachability ∈ reasonsAt (hearPeer k p s).ntu.peers k)) ∧
  ∀ (s : State) (p : Path) (hd : RxHead) (k : Nat) (e : Peer) (a : LinkAddr), Reaches s p hd k →
    hd.srcHandle = 0xFFFF → hd.dstHandle = 0xFFFF → s.peer k = some e → (e.links.get p).link = some a →
    TakesFrame (.echoReceived p hd) s p k (hearPeer k p s) ∧
    TakesFrame (.probeReceived p hd) s p k
      ((hearPeer k p s).withPath p
        { (hearPeer k p s).path p with
          class1 :=
            if ((hearPeer k p s).path p).class1.length < 32 then
              ((hearPeer k p s).path p).class1 ++ [answerTo e a none none 0 .echo none]
            else ((hearPeer k p s).path p).class1 })

/-- A bound DATA frame: the shift-number fence, the sequence check, the room of the delivery queue, in this order; only a
frame that passes all is accepted, and only the refusals of the last two request an ACK or a WAIT (R56 to R59).  A frame to
an OPENING record is checked against the record as R8's acceptance leaves it (R10). -/
def Obligations.BoundDataIsCheckedAndAccepted : Prop :=
  ∀ (s v : State) (p : Path) (hd : RxHead) (k q kd : Nat) (pl : List Byte) (kind : RecKind) (c : Conv),
    Reaches s p hd k → BothHandles hd → 1 ≤ q → q ≤ 4294967295 → kindOfCode kd = some kind → 1 ≤ pl.length →
    pl.length ≤ 512 → TakenAgainst (hearPeer k p s) p k hd v c →
    (hd.shift < c.inShift → TakesFrame (.dataReceived p hd q kd pl) s p k v) ∧
    (c.inShift ≤ hd.shift →
      (q ≠ c.received + 1 →
        TakesFrame (.dataReceived p hd q kd pl) s p k
          (requestAck hd.dstHandle false (some p) (v.withConv hd.dstHandle { c with inShift := hd.shift }))) ∧
      (q = c.received + 1 → 64 ≤ v.dlq.entries.length →
        TakesFrame (.dataReceived p hd q kd pl) s p k
          (requestAck hd.dstHandle true (some p) (v.withConv hd.dstHandle { c with inShift := hd.shift }))) ∧
      (q = c.received + 1 → v.dlq.entries.length < 64 →
        ∃ t, TakesFrame (.dataReceived p hd q kd pl) s p k t ∧
          t.conv hd.dstHandle = some { c with inShift := hd.shift, received := q, ackPath := some p } ∧
          (∀ h, h ≠ hd.dstHandle → t.conv h = v.conv h) ∧
          t.dlq = { v.dlq with entries := v.dlq.entries ++
            [{ handle := hd.dstHandle, seq := q, kind := kind, length := pl.length, payload := pl }] } ∧
          t.paths = v.paths ∧ t.rts = v.rts ∧ t.stc = v.stc ∧ t.prt = v.prt ∧ t.she = v.she ∧ t.ntu = v.ntu ∧
          t.hlu = v.hlu))

/-- A bound ACK settles when its delivered-through is above settled-through and not above the highest sequence assigned,
and otherwise changes nothing; a bound WAIT settles the same way and then pauses a CARRYING conversation.  Both settle an
OPENING record as R8's acceptance leaves it, and a WAIT to one starts no pause (R10, R35, R40).  That a WAIT to a record not
CARRYING leaves exactly what its settling leaves is said of states whose tables are in canonical form, which every step keeps
(`EveryStepKeepsTheCellsInBalance`). -/
def Obligations.BoundAckAndWaitSettle : Prop :=
  ∀ (s v : State) (p : Path) (hd : RxHead) (k d : Nat) (c : Conv), Reaches s p hd k → BothHandles hd →
    d ≤ 4294967295 → TakenAgainst (hearPeer k p s) p k hd v c →
    ∀ u, u = (if c.settled < d ∧ d ≤ c.highest then settleAdvance hd.dstHandle d (some p) v else v) →
      TakesFrame (.ackReceived p hd d) s p k u ∧
      (FromOpening (hearPeer k p s) p k hd v → TakesFrame (.waitReceived p hd d) s p k u) ∧
      (v = hearPeer k p s → BoundTo c k hd →
        (TablesCanonical s → ∀ b, u.conv hd.dstHandle = some b → b.state ≠ .carrying →
          TakesFrame (.waitReceived p hd d) s p k u) ∧
        ∀ b, u.conv hd.dstHandle = some b → b.state = .carrying →
          TakesFrame (.waitReceived p hd d) s p k
            (u.withConv hd.dstHandle
              { b with ackTimer := .stopped, waitPause := some (u.stc.time + b.ackInterval * 1000) }))

/-- A settle advance where no check follows it (the conversation is not CARRYING, or a SENT record remains): the covered
records leave and their cells join the tail of the free list (several in journal order, log entry 34), settled-through and
the retry count are written, the ack timer restarts, stays or stops, SETTLED is raised, and no other conversation changes.
A VOIDED answer to the same-path inquiry of `v`, with no check to follow: `v` becomes RETURNED with its cell, the other
covered records settle, settled-through becomes the greater of `d` and `v`, the ack timer stops (R36, R45, R47).  In
general the settle credit then lowers the score of the arrival path of an ACK or WAIT, and the quiet point and the CLOSE
frame follow in this order (R36).  An ORDINARY or IN-DELIVERY answer ends the inquiry, its timer in ACK-WAIT while a record
stays SENT, and settles by R36 when `d` is above settled-through (R45); one that contradicts itself is taken in the same way
(log entry 14). -/
def Obligations.SettlingAndVoidingChangeTheJournal : Prop :=
  (∀ (s : State) (h d : Nat) (c : Conv), s.conv h = some c →
     (c.state ≠ .carrying ∨ hasSent (c.journal.filter fun r => !r.covered d none) = true) →
     ∃ t, t = settleAdvance h d none s ∧
       t.conv h = some { c with
         journal := c.journal.filter fun r => !r.covered d none
         settled := d
         retryCount := 0
         ackTimer :=
           if hasSent (c.journal.filter fun r => !r.covered d none) then
             (if c.state = .carrying ∧ c.waitPause = none then .ackWait (s.stc.time + c.ackInterval * 1000)
              else c.ackTimer)
           else .stopped } ∧
       (∀ j, j ≠ h → t.conv j = s.conv j) ∧
       t.rts.free = s.rts.free ++ (c.journal.filter fun r => r.covered d none).map JRec.cell ∧
       .settled ∈ reasonsAt t.ntu.convs h ∧ t.paths = s.paths ∧ t.dlq = s.dlq ∧ t.prt = s.prt ∧ t.she = s.she ∧
       t.stc = s.stc ∧ t.hlu = s.hlu) ∧
  (∀ (s : State) (h n v x d : Nat) (c : Conv), s.conv h = some c → c.ackTimer = .inquiry n v x → c.state = .carrying →
    c.staged = none → c.closeStage = .opened → c.settled < v →
    ∃ t, t = applyInquiryAnswer h c .voided d s ∧
      t.conv h = some { c with
        journal := makeReturned v
          (if c.settled < d then c.journal.filter fun r => !r.covered d (some v) else c.journal)
        settled := max (if c.settled < d then d else c.settled) v
        retryCount := 0
        ackTimer := .stopped } ∧
      .returned ∈ reasonsAt t.ntu.convs h ∧ .settled ∈ reasonsAt t.ntu.convs h ∧
      (∀ j, j ≠ h → t.conv j = s.conv j) ∧ t.paths = s.paths ∧ t.dlq = s.dlq ∧ t.stc = s.stc) ∧
  (∀ (d v : Nat) (x : Option Nat) (r : JRec) (l : List JRec),
    (r.covered d x = true ↔ (r.status = .sent ∨ r.status = .waiting) ∧ r.seq ≤ d ∧ x ≠ some r.seq) ∧
    makeReturned v l = l.map fun r => if r.status = .sent ∧ r.seq = v then { r with status := .returned } else r) ∧
  (∀ (s : State) (h d : Nat) (credit : Option Path) (c : Conv), s.conv h = some c →
    ∃ t, t.conv h = some { c with
        journal := c.journal.filter fun r => !r.covered d none
        settled := d
        retryCount := 0
        ackTimer :=
          if hasSent (c.journal.filter fun r => !r.covered d none) then
            (if c.state = .carrying ∧ c.waitPause = none then .ackWait (s.stc.time + c.ackInterval * 1000)
             else c.ackTimer)
          else .stopped } ∧
      (∀ j, j ≠ h → t.conv j = s.conv j) ∧
      t.rts.free = s.rts.free ++ (c.journal.filter fun r => r.covered d none).map JRec.cell ∧
      .settled ∈ reasonsAt t.ntu.convs h ∧ t.paths = s.paths ∧ t.dlq = s.dlq ∧ t.prt = s.prt ∧ t.she = s.she ∧
      t.stc = s.stc ∧ t.hlu = s.hlu ∧
      settleAdvance h d credit s =
        checkClose h (quietPoint h (match credit with | none => t | some p => lowerScore p t))) ∧
  (∀ (s : State) (h n v x d : Nat) (c : Conv), s.conv h = some c → c.ackTimer = .inquiry n v x →
    ∃ t, t.conv h = some { c with
        journal := makeReturned v
          (if c.settled < d then c.journal.filter fun r => !r.covered d (some v) else c.journal)
        settled := max (if c.settled < d then d else c.settled) v
        retryCount := 0
        ackTimer := .stopped } ∧
      .returned ∈ reasonsAt t.ntu.convs h ∧ .settled ∈ reasonsAt t.ntu.convs h ∧
      (∀ j, j ≠ h → t.conv j = s.conv j) ∧ t.paths = s.paths ∧ t.dlq = s.dlq ∧ t.stc = s.stc ∧
      applyInquiryAnswer h c .voided d s = checkClose h (quietPoint h t)) ∧
  ∀ (s w : State) (h n v x d : Nat) (c : Conv) (out : AnswerOutcome), s.conv h = some c →
    c.ackTimer = .inquiry n v x → (out = .ordinary ∨ out = .inDelivery) →
    w = s.withConv h { c with
      retryCount := 0
      ackTimer := if hasSent c.journal then .ackWait (s.stc.time + c.ackInterval * 1000) else .stopped } →
    (c.settled < d → applyInquiryAnswer h c out d s = settleAdvance h d none w) ∧
    (d ≤ c.settled → applyInquiryAnswer h c out d s = w)

/-- A bound INQUIRY raises the inbound shift number, is decided by Table 3-4, and draws an ANSWER in class 1 while it has
room; only the VOIDED row moves the counters, and the ANSWER carries delivered-through as it then stands, whatever the outcome
(R64; that the 0 of R153 is R65's alone is log entry 13).  An ANSWER is begun with the body it was queued with (R153).  With
class 1 full no ANSWER is queued and the rest is done all the same (R86).  An INQUIRY to an OPENING
record is answered from the record as R8's acceptance leaves it (R10). -/
def Obligations.BoundInquiryIsAnsweredByTheVoidTable : Prop :=
  (∀ (s : State) (f : QFrame) (out : AnswerOutcome) (void : Option Nat) (d : Nat), f.body = .answer out void d →
    s.beginBody f = .answer out void d) ∧
  ∀ (s u : State) (p : Path) (hd : RxHead) (k : Nat) (void : Option Nat) (c : Conv) (e : Peer) (a : LinkAddr),
    Reaches s p hd k → BothHandles hd → (∀ v ∈ void, 1 ≤ v ∧ v ≤ 4294967295) →
    TakenAgainst (hearPeer k p s) p k hd u c → s.peer k = some e → (e.links.get p).link = some a →
    ∃ out r d, TakesFrame (.inquiryReceived p hd void) s p k
        ((u.withConv hd.dstHandle
            { c with inShift := max c.inShift hd.shift, received := r, delivered := d }).withPath p
          ((u.path p).withAnswer
            (answerTo e a (some hd.dstHandle) (some hd.srcHandle) hd.shift (.answer out void d) none))) ∧
      (void = none → out = .ordinary ∧ r = c.received ∧ d = c.delivered) ∧
      ∀ v, void = some v →
        if v ≤ c.delivered then out = .ordinary ∧ r = c.received ∧ d = c.delivered
        else if v ≤ c.received then out = .inDelivery ∧ r = c.received ∧ d = c.delivered
        else if c.received = v - 1 ∧ c.delivered = v - 1 then out = .voided ∧ r = v ∧ d = v
        else if c.received = v - 1 then out = .inDelivery ∧ r = c.received ∧ d = c.delivered
        else out = .notKnown ∧ r = c.received ∧ d = c.delivered

/-- A bound ANSWER lowers its path's score first.  NOT-KNOWN lapses the conversation; for a CARRYING conversation one that
does not match its same-path inquiry, for a SHIFTING one that does not match its slot, and in every other state any other
ANSWER changes nothing more; a matching one is applied (R44, R46, R84, R138, R140).  An ANSWER to an OPENING record is taken
against the record as R8's acceptance leaves it (R10).  The slot of a conversation is a slot in use that names its handle. -/
def Obligations.BoundAnswersAreMatchedBeforeTheyAct : Prop :=
  (∀ (s : State) (h : Nat), (s.slotOf h = none ↔ ∀ x ∈ s.she.slots, x.2.handle ≠ h) ∧
    ∀ n sl, s.slotOf h = some (n, sl) → (n, sl) ∈ s.she.slots ∧ sl.handle = h) ∧
  ∀ (s : State) (p : Path) (hd : RxHead) (k o d : Nat) (void : Option Nat) (out : AnswerOutcome) (u : State) (c : Conv),
    Reaches s p hd k → BothHandles hd → outcomeOfCode o = some out → (∀ v ∈ void, 1 ≤ v ∧ v ≤ 4294967295) →
    d ≤ 4294967295 → TakenAgainst (lowerScore p (hearPeer k p s)) p k hd u c →
    (out = .notKnown →
      TakesFrame (.answerReceived p hd o void d) s p k (lapse hd.dstHandle .notKnown u)) ∧
    (out ≠ .notKnown → c.state = .carrying →
      ((∃ n v x, c.ackTimer = .inquiry n v x ∧ hd.shift = c.sendShift ∧ void = some v ∧ d ≤ c.highest) →
        TakesFrame (.answerReceived p hd o void d) s p k (applyInquiryAnswer hd.dstHandle c out d u)) ∧
      ((∀ n v x, c.ackTimer = .inquiry n v x → ¬ (hd.shift = c.sendShift ∧ void = some v ∧ d ≤ c.highest)) →
        TakesFrame (.answerReceived p hd o void d) s p k u)) ∧
    (out ≠ .notKnown → c.state = .shifting →
      (∀ n sl, u.slotOf hd.dstHandle = some (n, sl) →
        (sl.phase = .inquiring ∧ sl.candidate = some p ∧ hd.shift = sl.newShift ∧ void = sl.void ∧ d ≤ c.highest →
          TakesFrame (.answerReceived p hd o void d) s p k (applyShiftAnswer hd.dstHandle n sl p out d u)) ∧
        (¬ (sl.phase = .inquiring ∧ sl.candidate = some p ∧ hd.shift = sl.newShift ∧ void = sl.void ∧
            d ≤ c.highest) → TakesFrame (.answerReceived p hd o void d) s p k u)) ∧
      (u.slotOf hd.dstHandle = none → TakesFrame (.answerReceived p hd o void d) s p k u)) ∧
    (out ≠ .notKnown → c.state ≠ .carrying → c.state ≠ .shifting →
      TakesFrame (.answerReceived p hd o void d) s p k u)

/-- A matching answer ends the shift: the conversation is CARRYING on the candidate with its SENT ordinary records WAITING
again, retry count 0, no forced target and one more shift, and SHIFTED is raised; stated where no staged list, no close and
no void request waits on it and it stands in no queue.  In general, in this order: the records up to `d` settle, but a
VOIDED sequence, their cells joining the free list (in journal order, log entry 34) and SETTLED being raised; a VOIDED record
that stands SENT becomes RETURNED and RETURNED is raised; the SENT ordinary records become WAITING; the conversation carries;
the slot frees and goes to the queue's head; SHIFTED is raised; the ack timer starts while a record stays SENT; then the
quiet point and the CLOSE frame (R139, R141). -/
def Obligations.AShiftAnswerCarriesTheConversation : Prop :=
  (∀ (s : State) (h n d : Nat) (sl : Slot) (p : Path) (out : AnswerOutcome) (c : Conv), s.conv h = some c →
    c.staged = none → c.closeStage = .opened → (∀ e ∈ s.she.queue, e.handle ≠ h) → sl.void = none →
    ∃ t, t = applyShiftAnswer h n sl p out d s ∧
      (∃ b, t.conv h = some b ∧ b.state = .carrying ∧ b.active = some p ∧ b.retryCount = 0 ∧ b.forced = none ∧
        b.shiftCount = min 65535 (c.shiftCount + 1) ∧ b.settled = max c.settled d ∧ b.prefs = c.prefs ∧
        b.sendShift = c.sendShift ∧ b.received = c.received ∧ b.delivered = c.delivered ∧
        b.journal = goBack (if c.settled < d then c.journal.filter fun r => !r.covered d none else c.journal)) ∧
      .shifted ∈ reasonsAt t.ntu.convs h) ∧
  (∀ l : List JRec, goBack l =
    l.map fun r => if r.status = .sent ∧ r.kind = .ordinary then { r with status := .waiting } else r) ∧
  ∀ (s : State) (h n d : Nat) (sl : Slot) (p : Path) (out : AnswerOutcome) (c : Conv) (x : Option Nat)
    (kept : List JRec), s.conv h = some c → x = (if out = .voided then sl.void else none) →
    kept = (if c.settled < d then c.journal.filter (fun r => !r.covered d x) else c.journal) →
    ∃ w b, w.conv h = some b ∧ (∀ j, j ≠ h → w.conv j = s.conv j) ∧ w.she = s.she ∧ w.paths = s.paths ∧
      w.dlq = s.dlq ∧ w.prt = s.prt ∧ w.stc = s.stc ∧ w.hlu = s.hlu ∧
      w.rts.free = s.rts.free ++
        (if c.settled < d then (c.journal.filter fun r => r.covered d x).map JRec.cell else []) ∧
      (c.settled < d → .settled ∈ reasonsAt w.ntu.convs h) ∧
      { b with journal := c.journal, settled := c.settled } =
        { c with active := some p, state := .carrying, retryCount := 0, forced := none,
                 shiftCount := min 65535 (c.shiftCount + 1) } ∧
      (∀ v, x = some v → (∃ r ∈ kept, r.status = .sent ∧ r.seq = v) →
        b.journal = goBack (makeReturned v kept) ∧ b.settled = max (max c.settled d) v ∧
          .returned ∈ reasonsAt w.ntu.convs h) ∧
      ((∀ v, x = some v → ∀ r ∈ kept, r.seq = v → r.status ≠ .sent) →
        b.journal = goBack kept ∧ b.settled = max c.settled d) ∧
      ∀ g, g = raiseConv h .shifted (grantAll (freeSlot n w)) → ∀ y, g.conv h = some y →
        applyShiftAnswer h n sl p out d s =
          checkClose h (quietPoint h
            (if hasSent y.journal then
              g.withConv h { y with ackTimer := .ackWait (g.stc.time + y.ackInterval * 1000) }
            else g))

/-- An OPEN from a peer: a repeat is answered with the standing record, an OPEN that is not admitted is refused, and neither
changes any record; an admitted one fills the lowest VACANT record from the peer's profile (R4, R12 to R14), after every other
record of the peer that holds the handle has lost it and, unless LAPSED already, has lapsed NOT-KNOWN (R9; stated with the
shift queue empty, so that no grant follows), and its accepted OPEN-REPLY joins class 1.  With class 1
full no OPEN-REPLY is queued and the rest is done all the same (R86).  That this frame
belongs to its record, which a lapse withdraws it with, is log entry 10.  A repeat finds a record of the peer, role ACCEPTOR, not
LAPSED, with the handle as its peer handle (R12); the lowest VACANT record is the lowest of 0 to 255 not in use (R4). -/
def Obligations.AnOpenIsRepeatedRefusedOrAdmitted : Prop :=
  (∀ (s : State) (k ph h : Nat), s.isRepeat k ph h = true ↔
    ∃ c, s.conv h = some c ∧ c.peer = k ∧ c.role = .acceptor ∧ c.state ≠ .lapsed ∧ c.peerHandle = some ph) ∧
  (∀ s : State, (s.lowestVacant = none ↔ ∀ h, h < 256 → s.conv h ≠ none) ∧
    ∀ h, s.lowestVacant = some h ↔ h < 256 ∧ s.conv h = none ∧ ∀ j, j < h → s.conv j ≠ none) ∧
  (∀ (s : State) (p : Path) (hd : RxHead) (k : Nat) (u : State) (e : Peer) (a : LinkAddr), Reaches s p hd k →
    hd.srcHandle < 256 → hd.dstHandle = 0xFFFF → u = hearPeer k p s → u.peer k = some e →
    (e.links.get p).link = some a → (u.path p).class1.length < 32 →
    (∀ h, u.handles.find? (u.isRepeat k hd.srcHandle) = some h →
      TakesFrame (.openReceived p hd) s p k
        (u.withPath p { u.path p with class1 := (u.path p).class1 ++
          [answerTo e a (some h) (some hd.srcHandle) 0 (.openReply true) (some h)] })) ∧
    (u.handles.find? (u.isRepeat k hd.srcHandle) = none →
      ((e.admission = false ∨ u.lowestVacant = none) →
        TakesFrame (.openReceived p hd) s p k
          (u.withPath p { u.path p with class1 := (u.path p).class1 ++
            [answerTo e a none (some hd.srcHandle) 0 (.openReply false) none] })) ∧
      ∀ h, e.admission = true → u.lowestVacant = some h → h < 256 ∧ u.conv h = none ∧
        ∃ t c, TakesFrame (.openReceived p hd) s p k t ∧ t.conv h = some c ∧ c.role = .acceptor ∧ c.peer = k ∧
          c.peerHandle = some hd.srcHandle ∧ c.prefs = e.admitList.getD [] ∧ c.cap = e.cap ∧
          c.ackInterval = e.ackInterval ∧ c.retryLimit = e.retryLimit ∧ c.holdOff = e.holdOff ∧
          c.journal = [] ∧ c.nextSeq = some 1 ∧ c.settled = 0 ∧ c.received = 0 ∧ c.delivered = 0 ∧
          .openedByPeer ∈ reasonsAt t.ntu.convs h ∧
          if u.usable k p = true ∧ p ∈ e.admitList.getD [] then c.state = .carrying ∧ c.active = some p
          else c.state = .parked ∧ c.active = none ∧ c.parkStart = some s.stc.time ∧
            .parked ∈ reasonsAt t.ntu.convs h)) ∧
  (∀ (s : State) (p : Path) (hd : RxHead) (k : Nat) (u : State) (e : Peer) (a : LinkAddr), Reaches s p hd k →
    hd.srcHandle < 256 → hd.dstHandle = 0xFFFF → u = hearPeer k p s → u.peer k = some e →
    (e.links.get p).link = some a → 32 ≤ (u.path p).class1.length →
    ((∃ h, u.handles.find? (u.isRepeat k hd.srcHandle) = some h) ∨ e.admission = false ∨ u.lowestVacant = none) →
    TakesFrame (.openReceived p hd) s p k u) ∧
  (∀ (s : State) (p : Path) (hd : RxHead) (k h : Nat) (u w : State) (e : Peer) (a : LinkAddr), Reaches s p hd k →
    hd.srcHandle < 256 → hd.dstHandle = 0xFFFF → u = hearPeer k p s → u.peer k = some e →
    (e.links.get p).link = some a → u.handles.find? (u.isRepeat k hd.srcHandle) = none → e.admission = true →
    u.lowestVacant = some h → w = displace k hd.srcHandle h u →
    ∃ t, TakesFrame (.openReceived p hd) s p k t ∧ (∀ j, j ≠ h → t.conv j = w.conv j) ∧ t.she = w.she ∧
      (∀ q, q ≠ p → t.path q = w.path q) ∧
      t.path p = { w.path p with
        class1 :=
          if (w.path p).class1.length < 32 then
            (w.path p).class1 ++ [answerTo e a (some h) (some hd.srcHandle) 0 (.openReply true) (some h)]
          else (w.path p).class1 }) ∧
  ∀ (s : State) (k ph h : Nat), s.she.queue = [] →
    (∀ j, s.conv j = none → (displace k ph h s).conv j = none) ∧
    ∀ j c, s.conv j = some c →
      ((j = h ∨ c.peer ≠ k ∨ c.peerHandle ≠ some ph) → (displace k ph h s).conv j = some c) ∧
      (j ≠ h → c.peer = k → c.peerHandle = some ph →
        ∃ d, (displace k ph h s).conv j = some d ∧ d.peerHandle = none ∧ d.peer = k ∧ d.state = .lapsed ∧
          (c.state = .lapsed → d = { c with peerHandle := none }) ∧
          (c.state ≠ .lapsed → d.lapseReason = some .notKnown ∧
            .lapsed ∈ reasonsAt (displace k ph h s).ntu.convs j))

/-- An OPEN-REPLY: refused lapses an OPENING record; accepted ends its attempts and makes it CARRYING on a usable listed
path or PARKED; bound to a record in any other state, or refused and unbound, it changes nothing; accepted and unbound (to a
VACANT or LAPSED handle, or a record of another peer or another peer handle) it draws an ABANDON on a path in service, while
class 2 has room (R2, R8, R86), whose source handle and shift number are log entry 32 and which belongs to no record by log
entry 10.  The acceptance, which R10 applies as well: the handle's other record displaced
(R9), the fields written, OPENED raised, and from CARRYING the quiet point and the CLOSE frame. -/
def Obligations.AnOpenReplyEndsTheOpening : Prop :=
  (∀ (s : State) (p : Path) (hd : RxHead) (k : Nat) (u : State), Reaches s p hd k → hd.dstHandle < 256 →
    u = hearPeer k p s →
    (hd.srcHandle = 0xFFFF → (∀ c, u.conv hd.dstHandle = some c → c.state ≠ .opening ∨ c.peer ≠ k) →
      TakesFrame (.openReplyReceived p hd 2) s p k u) ∧
    (hd.srcHandle < 256 → Unbound u k hd →
      ((u.path p).state.inService = false → TakesFrame (.openReplyReceived p hd 1) s p k u) ∧
      ∀ e a, (u.path p).state.inService = true → u.peer k = some e → (e.links.get p).link = some a →
        TakesFrame (.openReplyReceived p hd 1) s p k
          (u.withPath p { u.path p with
            class2 :=
              if (u.path p).class2.length < 64 then
                (u.path p).class2 ++ [answerTo e a (some hd.dstHandle) (some hd.srcHandle) 0 .abandon none]
              else (u.path p).class2 }))) ∧
  (∀ (s : State) (p : Path) (hd : RxHead) (k : Nat) (u : State) (c : Conv), Reaches s p hd k → hd.dstHandle < 256 →
    u = hearPeer k p s → u.conv hd.dstHandle = some c →
    (hd.srcHandle = 0xFFFF → c.state = .opening → c.peer = k →
      TakesFrame (.openReplyReceived p hd 2) s p k (lapse hd.dstHandle .openRefused u)) ∧
    (hd.srcHandle < 256 → BoundTo c k hd → TakesFrame (.openReplyReceived p hd 1) s p k u) ∧
    (hd.srcHandle < 256 → c.state = .opening → c.peer = k → c.staged = none → c.closeStage = .opened →
      (∀ j b, u.conv j = some b → j ≠ hd.dstHandle → ¬ (b.peer = k ∧ b.peerHandle = some hd.srcHandle)) →
      ∃ t, TakesFrame (.openReplyReceived p hd 1) s p k t ∧ .opened ∈ reasonsAt t.ntu.convs hd.dstHandle ∧
        if u.usable k p = true ∧ p ∈ c.prefs then
          t.conv hd.dstHandle = some { c with
            peerHandle := some hd.srcHandle, openTimer := none, openAttempt := none, active := some p,
            state := .carrying }
        else
          t.conv hd.dstHandle = some { c with
            peerHandle := some hd.srcHandle, openTimer := none, openAttempt := none, active := none,
            state := .parked, parkStart := some s.stc.time, forced := none } ∧
          .parked ∈ reasonsAt t.ntu.convs hd.dstHandle) ∧
    (hd.srcHandle < 256 → c.state = .opening → c.peer = k →
      TakesFrame (.openReplyReceived p hd 1) s p k (acceptOpening hd.dstHandle c hd.srcHandle p u))) ∧
  ∀ (s w : State) (h ph : Nat) (p : Path) (c b : Conv), w = displace c.peer ph h s → w.conv h = some b →
    (w.usable c.peer p = true → p ∈ c.prefs →
      acceptOpening h c ph p s =
        checkClose h (quietPoint h (raiseConv h .opened
          (w.withConv h { b with peerHandle := some ph, openTimer := none, openAttempt := none, active := some p,
                                 state := .carrying })))) ∧
    ((w.usable c.peer p = false ∨ p ∉ c.prefs) →
      acceptOpening h c ph p s =
        raiseConv h .opened (raiseConv h .parked
          (w.withConv h { b with peerHandle := some ph, openTimer := none, openAttempt := none, active := none,
                                 state := .parked, parkStart := some w.stc.time, forced := none })))

/-- A bound CLOSE whose final sequence is delivered-through is answered, while class 1 has room, and records the far end
closed, the record becoming VACANT when both directions are closed; any other bound CLOSE changes nothing (R19, R67).  A CLOSE
to an OPENING record is decided against the record as R8's acceptance leaves it (R10). -/
def Obligations.ABoundCloseIsAnsweredWhenAllIsDelivered : Prop :=
  ∀ (s : State) (p : Path) (hd : RxHead) (k f : Nat) (u : State) (c : Conv) (e : Peer) (a : LinkAddr),
    Reaches s p hd k → BothHandles hd → f ≤ 4294967295 → TakenAgainst (hearPeer k p s) p k hd u c →
    u.peer k = some e → (e.links.get p).link = some a →
    (f ≠ c.delivered → TakesFrame (.closeReceived p hd f) s p k u) ∧
    (f = c.delivered →
      ∃ t, t.paths = (u.withPath p { u.path p with
          class1 :=
            if (u.path p).class1.length < 32 then
              (u.path p).class1 ++ [answerTo e a (some hd.dstHandle) (some hd.srcHandle) 0 (.closeReply f) none]
            else (u.path p).class1 }).paths ∧
        t.conv hd.dstHandle = some { c with farClosed := true } ∧ (∀ j, j ≠ hd.dstHandle → t.conv j = u.conv j) ∧
        (c.farClosed = false → .farClosed ∈ reasonsAt t.ntu.convs hd.dstHandle) ∧
        (c.farClosed = true → t.ntu = u.ntu) ∧
        TakesFrame (.closeReceived p hd f) s p k (if c.closeStage = .closedOut then vacate hd.dstHandle t else t))

/-- A bound CLOSE-REPLY is taken in CLOSE-SENT, or in DRAINING with nothing WAITING or SENT, when its final sequence is the
record's own; it stops the close timer and sets CLOSED-OUT; otherwise it changes nothing.  One to an OPENING record is taken
against the record as R8's acceptance leaves it (R10).  A bound ABANDON lapses the record; one for an OPENING record is
discarded (R18, R19, R20). -/
def Obligations.CloseRepliesCloseOutAndAbandonsLapse : Prop :=
  (∀ (s : State) (p : Path) (hd : RxHead) (k f : Nat) (u : State) (c : Conv),
     Reaches s p hd k → BothHandles hd → f ≤ 4294967295 → TakenAgainst (hearPeer k p s) p k hd u c →
     if (c.closeStage = .closeSent ∨
         (c.closeStage = .draining ∧ hasSent c.journal = false ∧ hasWaiting c.journal = false)) ∧ f = c.highest then
       (c.farClosed = false →
         TakesFrame (.closeReplyReceived p hd f) s p k
           (u.withConv hd.dstHandle { c with closeTimer := none, closeStage := .closedOut, retryCount := 0 })) ∧
       (c.farClosed = true →
         TakesFrame (.closeReplyReceived p hd f) s p k
           (vacate hd.dstHandle
             (u.withConv hd.dstHandle { c with closeTimer := none, closeStage := .closedOut, retryCount := 0 })))
     else TakesFrame (.closeReplyReceived p hd f) s p k u) ∧
  ∀ (s : State) (p : Path) (hd : RxHead) (k : Nat) (u : State) (c : Conv), Reaches s p hd k → BothHandles hd →
    u = hearPeer k p s → u.conv hd.dstHandle = some c →
    (BoundTo c k hd → TakesFrame (.abandonReceived p hd) s p k (lapse hd.dstHandle .abandoned u)) ∧
    (c.state = .opening → c.peerHandle = none → TakesFrame (.abandonReceived p hd) s p k u)

/-- A frame bound to no record, its handle VACANT or LAPSED or of another peer or another peer handle: DATA and INQUIRY
draw NOT-KNOWN and CLOSE draws CLOSE-REPLY, in class 1 while it has room; the others draw nothing, and no record changes.  An
ANSWER is never answered; as any ANSWER, it has lowered its path's score first (R2, R19, R22, R65, R84, R86). -/
def Obligations.UnboundFramesAreAnsweredWithoutARecord : Prop :=
  ∀ (s : State) (p : Path) (hd : RxHead) (k : Nat) (u : State) (e : Peer) (a : LinkAddr), Reaches s p hd k →
    BothHandles hd → u = hearPeer k p s → u.peer k = some e → (e.links.get p).link = some a →
    (Unbound u k hd →
      (∀ q kd pl, 1 ≤ q → q ≤ 4294967295 → (kd = 1 ∨ kd = 2) → 1 ≤ pl.length → pl.length ≤ 512 →
        TakesFrame (.dataReceived p hd q kd pl) s p k
          (u.withPath p ((u.path p).withAnswer
            (answerTo e a (some hd.dstHandle) (some hd.srcHandle) hd.shift (.answer .notKnown none 0) none)))) ∧
      (∀ void, (∀ v ∈ void, 1 ≤ v ∧ v ≤ 4294967295) →
        TakesFrame (.inquiryReceived p hd void) s p k
          (u.withPath p ((u.path p).withAnswer
            (answerTo e a (some hd.dstHandle) (some hd.srcHandle) hd.shift (.answer .notKnown void 0) none)))) ∧
      (∀ f, f ≤ 4294967295 →
        TakesFrame (.closeReceived p hd f) s p k
          (u.withPath p ((u.path p).withAnswer
            (answerTo e a (some hd.dstHandle) (some hd.srcHandle) 0 (.closeReply f) none)))) ∧
      (∀ d, d ≤ 4294967295 → TakesFrame (.ackReceived p hd d) s p k u ∧ TakesFrame (.waitReceived p hd d) s p k u ∧
        TakesFrame (.closeReplyReceived p hd d) s p k u) ∧
      TakesFrame (.abandonReceived p hd) s p k u) ∧
    ∀ o void d out, outcomeOfCode o = some out → (∀ v ∈ void, 1 ≤ v ∧ v ≤ 4294967295) → d ≤ 4294967295 →
      Unbound (lowerScore p u) k hd → TakesFrame (.answerReceived p hd o void d) s p k (lowerScore p u)

/-! ## Pins and path timers -/

/-- A sample advances station time to its instant and runs its qualifier: an agreeing sample ends the run, a differing one
counts, and the one that reaches the required count, 4 or 1 by the filter, changes the qualified state with the time of the
run's first sample.  An alarm transition raises ALARM; on a path that is not live, one to ACTIVE does nothing more (R72, R94,
R95).  That the command itself carries station time to the sample is the model's choice (log entry 2), and so is the instant
of a sample that comes late, station time as it stands (log entry 26). -/
def Obligations.SamplesRunTheQualifiers : Prop :=
  ∀ (s : State) (p : Path) (r : PathRec) (v : Bool) (t u : Nat), s.inReset = false → s.path p = r →
    t = max s.stc.time (r.lineSampled + r.sampleInterval) → u = max s.stc.time (r.alarmSampled + r.sampleInterval) →
    (v = r.lineUp →
      Takes (.lineSample p v) s
        ((s.atTime t).withPath p { r with lineSampled := t, lineRun := 0, lineRunTime := none })) ∧
    (v ≠ r.lineUp → r.lineRun + 1 < (if r.lineFilter = true then 4 else 1) →
      Takes (.lineSample p v) s
        ((s.atTime t).withPath p
          { r with lineSampled := t, lineRun := r.lineRun + 1, lineRunTime := some (r.lineRunTime.getD t) })) ∧
    (v ≠ r.lineUp → (if r.lineFilter = true then 4 else 1) ≤ r.lineRun + 1 →
      Takes (.lineSample p v) s
        (lineQualified p v
          ((s.atTime t).withPath p
            { r with lineSampled := t, lineUp := v, lineTime := r.lineRunTime.getD t, lineRun := 0,
                     lineRunTime := none }))) ∧
    (v = r.alarm →
      Takes (.alarmSample p v) s
        ((s.atTime u).withPath p { r with alarmSampled := u, alarmRun := 0, alarmRunTime := none })) ∧
    (v ≠ r.alarm → r.alarmRun + 1 < (if r.alarmFilter = true then 4 else 1) →
      Takes (.alarmSample p v) s
        ((s.atTime u).withPath p
          { r with alarmSampled := u, alarmRun := r.alarmRun + 1, alarmRunTime := some (r.alarmRunTime.getD u) })) ∧
    (v ≠ r.alarm → (if r.alarmFilter = true then 4 else 1) ≤ r.alarmRun + 1 →
      ∃ w, w = (s.atTime u).withPath p
          { r with alarmSampled := u, alarm := v, alarmTime := r.alarmRunTime.getD u, alarmRun := 0,
                   alarmRunTime := none } ∧
        (v = true → r.state.live = true → .plane ∈ r.sources →
          Takes (.alarmSample p v) s (quenchPath p .plane (raisePath p .alarm w))) ∧
        (v = true → (r.state.live = false ∨ .plane ∉ r.sources) →
          Takes (.alarmSample p v) s (raisePath p .alarm w)) ∧
        (v = false → Takes (.alarmSample p v) s (releaseEvent p (raisePath p .alarm w))))

/-- A qualified line transition raises LINE.  UP on a DOWN path that neither an enabled alarm nor an enabled quenched
companion holds back: PROVING, the settle timer and the probe rounds start, STATE is raised.  DOWN on a live path: DOWN,
score 0, the settle timer and the rounds stop, every peer becomes UNKNOWN there, no CARRYING conversation keeps the path, and
STATE is raised, with FALSE-REVIVAL from PROVING.  Any other transition only raises LINE (R73, R74, R75).  In full, UP on a
DOWN path: LINE, PROVING with its settle timer, the first round begun and STATE, and then the path is quenched at once with
PLANE by an enabled ACTIVE alarm, or else with COMPANION by an enabled QUENCHED companion (R99).  DOWN on a live path: LINE,
the queues emptied, the rounds stopped, then from SOUND or SUSPECT the leaving of service with the class-4 frames it held,
then STATE, and FALSE-REVIVAL from PROVING (R74, R81, R82). -/
def Obligations.AQualifiedLineTransitionMovesThePath : Prop :=
  (∀ (s w : State) (p : Path) (r : PathRec), s.path p = r → r.state = .down →
    w = raisePath p .state (beginRound p ((raisePath p .line s).withPath p
      { r with state := .proving, settleTimer := some (s.stc.time + r.settleTime * 1000) })) →
    (.plane ∈ r.sources → r.alarm = true → lineQualified p true s = quenchPath p .plane w) ∧
    ((.plane ∉ r.sources ∨ r.alarm = false) → .companion ∈ r.sources →
      (∃ q ∈ r.companions, q ≠ p ∧ (s.path q).state = .quenched) →
      lineQualified p true s = quenchPath p .companion w) ∧
    ((.plane ∉ r.sources ∨ r.alarm = false) →
      (.companion ∉ r.sources ∨ ∀ q ∈ r.companions, q ≠ p → (s.path q).state ≠ .quenched) →
      lineQualified p true s = w)) ∧
  (∀ (s : State) (p : Path) (r : PathRec), s.path p = r → r.state.live = true → ∃ u,
    RoundsStopped p ((raisePath p .line s).withPath p
      { r.emptied with state := .down, score := 0, settleTimer := none }) u ∧
    (r.state = .proving →
      lineQualified p false s = raisePath p .falseRevival (raisePath p .state u)) ∧
    (r.state.inService = true →
      lineQualified p false s = raisePath p .state (leaveService p r.class4 u))) ∧
  ∀ (s : State) (p : Path) (r : PathRec), s.path p = r →
    (r.state = .down → (r.alarm = false ∨ .plane ∉ r.sources) →
      (.companion ∉ r.sources ∨ ∀ q ∈ r.companions, q ≠ p → (s.path q).state ≠ .quenched) →
      ∃ t, t = lineQualified p true s ∧ (t.path p).state = .proving ∧ (t.path p).score = r.score ∧
        (t.path p).settleTimer = some (s.stc.time + r.settleTime * 1000) ∧
        t.prt.rounds.get p = some (s.stc.time + r.probeInterval * 1000) ∧
        (∀ q, q ≠ p → t.path q = s.path q) ∧ t.convs = s.convs ∧ t.stc = s.stc ∧
        .line ∈ t.ntu.paths.get p ∧ .state ∈ t.ntu.paths.get p) ∧
    (r.state.live = true →
      ∃ t, t = lineQualified p false s ∧ (t.path p).state = .down ∧ (t.path p).score = 0 ∧
        (t.path p).settleTimer = none ∧ t.prt.rounds.get p = none ∧
        (∀ k e, s.peer k = some e → ∃ f, t.peer k = some f ∧ f.node = e.node ∧
          (f.links.get p).reach = .unknown ∧ (f.links.get p).miss = 0 ∧ (f.links.get p).heard = false ∧
          (f.links.get p).lastHeard = (e.links.get p).lastHeard) ∧
        (∀ h c, t.conv h = some c → c.state = .carrying → c.active ≠ some p ∨ r.state = .proving) ∧
        .line ∈ t.ntu.paths.get p ∧ .state ∈ t.ntu.paths.get p ∧
        (r.state = .proving → .falseRevival ∈ t.ntu.paths.get p ∧ t.convs = s.convs)) ∧
    (r.state ≠ .down → lineQualified p true s = raisePath p .line s) ∧
    (r.state.live = false → lineQualified p false s = raisePath p .line s)

/-- The settle timer's expiry makes a path SOUND with score 0, raises STATE and cues when some peer is REACHABLE on it, and
otherwise starts the timer again (R76, R77).  A probe round's expiry closes the round and begins the next one: an entry with
a link address that was not heard misses, and becomes UNREACHABLE at the miss limit; an entry that was heard keeps its miss
count and reachability; heard in round becomes no, and the round timer starts again (R114, R115).  That an entry added in
mid-round counts its miss at the close of that round is log entry 40.  A timer that does not run
has no expiry: that command changes nothing (log entry 6).  The command carries station time to the expiry, and an expiry
whose instant has passed is taken at the present time (log entry 2).  The beginning of a round: heard in round becomes no in
every entry, one PROBE joins class 3 for each entry with a link address for whose node none stands there, in ascending slot
order, the round timer starts, and nothing else changes (R86, R114).  The close of a round: the entries with a link address that
were not heard miss, in ascending slot order; a round in which some entry has a link address and none of them was heard then
hands +8 to the score.  One miss counts up to 15, and at the limit an entry that is not UNREACHABLE becomes so: the shift
cause to its conversations active there, the report to the slots whose candidate the path is, the PEER-ALL test, then
REACHABILITY; one already UNREACHABLE only counts on (R97, R115, R117).  The ascending order of the misses is said of states
whose tables are in canonical form, which every step keeps (`EveryStepKeepsTheCellsInBalance`). -/
def Obligations.PathTimersSettleAndProbe : Prop :=
  (∀ (s : State) (p : Path), s.inReset = false →
    (∀ x, (s.path p).settleTimer = some x →
      ((∃ k e, s.peer k = some e ∧ (e.links.get p).reach = .reachable) →
        Takes (.settleExpiry p) s
          (cueAll none p (raisePath p .state
            ((s.atTime x).withPath p { s.path p with state := .sound, score := 0, settleTimer := none })))) ∧
      ((∀ k e, s.peer k = some e → (e.links.get p).reach ≠ .reachable) →
        Takes (.settleExpiry p) s
          ((s.atTime x).withPath p
            { s.path p with settleTimer := some (max s.stc.time x + (s.path p).settleTime * 1000) }))) ∧
    ((s.path p).settleTimer = none → Takes (.settleExpiry p) s s) ∧
    (∀ x, s.prt.rounds.get p = some x → s.prt.peers.wf = true →
      ∃ t, Takes (.probeRound p) s t ∧ t.stc.time = max s.stc.time x ∧
        t.prt.rounds.get p = some (max s.stc.time x + (s.path p).probeInterval * 1000) ∧
        ∀ k e, s.peer k = some e →
          ∃ f, t.peer k = some f ∧ f.node = e.node ∧ (f.links.get p).heard = false ∧
            (f.links.get p).link = (e.links.get p).link ∧
            (∀ q, q ≠ p → f.links.get q = e.links.get q) ∧
            if (e.links.get p).link = none ∨ (e.links.get p).heard = true then
              (f.links.get p).miss = (e.links.get p).miss ∧ (f.links.get p).reach = (e.links.get p).reach
            else
              (f.links.get p).miss = min 15 ((e.links.get p).miss + 1) ∧
              (f.links.get p).reach =
                if (s.path p).missLimit ≤ min 15 ((e.links.get p).miss + 1) then .unreachable
                else (e.links.get p).reach) ∧
    (∀ x, s.prt.rounds.get p = some x →
      Takes (.probeRound p) s (beginRound p (closeRound p (s.atTime x)))) ∧
    (s.prt.rounds.get p = none → Takes (.probeRound p) s s)) ∧
  (∀ (s : State) (p : Path), ∃ (missing : List Nat) (u : State),
    (∀ k, k ∈ missing ↔ ∃ e, s.peer k = some e ∧ (e.links.get p).link ≠ none ∧ (e.links.get p).heard = false) ∧
    (TablesCanonical s → missing.Pairwise (· < ·)) ∧ u = missing.foldl (fun t k => missRound p k t) s ∧
    ((∃ k e, s.peer k = some e ∧ (e.links.get p).link ≠ none) →
      (∀ k e, s.peer k = some e → (e.links.get p).link ≠ none → (e.links.get p).heard = false) →
      closeRound p s = addScore p 8 u) ∧
    (((∀ k e, s.peer k = some e → (e.links.get p).link = none) ∨
        ∃ k e, s.peer k = some e ∧ (e.links.get p).link ≠ none ∧ (e.links.get p).heard = true) →
      closeRound p s = u)) ∧
  (∀ (s : State) (p : Path) (k m : Nat) (e : Peer), s.peer k = some e → m = min 15 ((e.links.get p).miss + 1) →
    (((e.links.get p).reach = .unreachable ∨ m < (s.path p).missLimit) →
      missRound p k s = { s with prt := { s.prt with
        peers := KMap.set s.prt.peers k { e with links := e.links.set p { e.links.get p with miss := m } } } }) ∧
    ((e.links.get p).reach ≠ .unreachable → (s.path p).missLimit ≤ m →
      ∃ u v, u = { s with prt := { s.prt with
          peers := KMap.set s.prt.peers k
            { e with links := e.links.set p { e.links.get p with miss := m, reach := .unreachable } } } } ∧
        PeerAllTested p (fun _ => True)
          (dropCandidates p (some k)
            ((s.handles.filter fun h =>
                (s.conv h).any fun c => decide (c.active = some p) && decide (c.peer = k)).foldl
              (fun t h => shiftCause true h t) u)) v ∧
        missRound p k s = raisePeer k .reachability v)) ∧
  ∀ (s : State) (p : Path), ∃ (probes : List QFrame) (t : KMap Peer),
    beginRound p s =
      { s.withPath p { s.path p with class3 := (s.path p).class3 ++ probes } with
        prt := { peers := t, rounds := s.prt.rounds.set p (some (s.stc.time + (s.path p).probeInterval * 1000)) } } ∧
    (∀ k, s.peer k = none → KMap.get? t k = none) ∧
    (∀ k e, s.peer k = some e →
      KMap.get? t k = some { e with links := e.links.set p { e.links.get p with heard := false } }) ∧
    (∀ f ∈ probes, ∃ k e a, s.peer k = some e ∧ (e.links.get p).link = some a ∧
      f = answerTo e a none none 0 .probe none ∧ ∀ g ∈ (s.path p).class3, g.dstNode ≠ f.dstNode) ∧
    (probes.map QFrame.dstNode).Nodup ∧
    (∀ k e a, s.peer k = some e → (e.links.get p).link = some a →
      ∃ f ∈ (s.path p).class3 ++ probes, f.dstNode = e.node) ∧
    (s.prt.peers.wf = true → ∃ slots : List Nat, slots.Pairwise (· < ·) ∧
      probes.map some = slots.map fun k =>
        (s.peer k).bind fun e => (e.links.get p).link.map fun a => answerTo e a none none 0 .probe none)

/-- The completion of a frame frees the transmitter, which then looks again; one that was leaving when a restart took effect
empties the queues and begins nothing on any port, the outbound link alone taking its next record (log entry 16); with
nothing in transmission it changes nothing (log entry 6).  A free
transmitter of a configured station begins the head of the first class that has one: classes 1 to 4 in service, 1 and 3 in
PROVING and QUENCHED, none in DOWN and DRAINED; with those empty in service it begins the DATA of the conversation whose
turn it is, whose record becomes SENT under its send shift, its ack timer starting if it was stopped.  A busy transmitter, or
an unconfigured station's, begins nothing (R33, R85, R87, R88, R186).  A conversation offers its transmittable record on the
path that is its active one while it is CARRYING: with no WAIT pause in force, the first WAITING record of the journal, whose
records stand in the order in which SEND numbered them; an ORDINARY one while no SINGLE-SHOT record is SENT, a SINGLE-SHOT one
while no record is SENT (R32).  The turn goes to the first conversation that offers one in ascending handle order from the
handle after the rotation point, wrapping (R87); the order is said of states whose tables are in canonical form, which every
step keeps (`EveryStepKeepsTheCellsInBalance`).  A frame begun carries the port's address, the station's type and node id as
they stand now, and the rest as queued, but for the delivered-through of an ACK or WAIT (R63, R151, R152, R182). -/
def Obligations.TheTransmitterFreesAndBeginsFrames : Prop :=
  (∀ c : Conv,
    (c.waitPause ≠ none → c.transmittable = none) ∧
    ((∀ x ∈ c.journal, x.status ≠ .waiting) → c.transmittable = none) ∧
    ∀ pre x post, c.waitPause = none → c.journal = pre ++ x :: post → x.status = .waiting →
      (∀ y ∈ pre, y.status ≠ .waiting) →
      (x.kind = .ordinary →
        ((∃ y ∈ c.journal, y.status = .sent ∧ y.kind = .singleShot) → c.transmittable = none) ∧
        ((∀ y ∈ c.journal, y.status = .sent → y.kind ≠ .singleShot) → c.transmittable = some x)) ∧
      (x.kind = .singleShot →
        ((∃ y ∈ c.journal, y.status = .sent) → c.transmittable = none) ∧
        ((∀ y ∈ c.journal, y.status ≠ .sent) → c.transmittable = some x))) ∧
  (∀ (s : State) (p : Path) (h : Nat) (c : Conv) (x : JRec), s.offer p h = some (c, x) ↔
    s.conv h = some c ∧ c.state = .carrying ∧ c.active = some p ∧ c.transmittable = some x) ∧
  (∀ (s : State) (p : Path), (s.dataTurn p = none ↔ ∀ h, s.offer p h = none) ∧
    ∀ h, s.dataTurn p = some h → s.offer p h ≠ none ∧
      (TablesCanonical s → ∀ j, j ≠ h → s.offer p j ≠ none →
        (s.path p).rotation < h ∧ j ≤ (s.path p).rotation ∨
          ((s.path p).rotation < h ↔ (s.path p).rotation < j) ∧ h < j)) ∧
  (∀ (s : State) (p : Path) (f : QFrame),
    s.begun p f =
      { etherDst := f.dstAddr, etherSrc := portAddr p s.stc.nodeId, etherType := s.stc.frameType,
        srcNode := s.stc.nodeId, dstNode := f.dstNode, srcHandle := f.srcHandle, dstHandle := f.dstHandle,
        shift := f.shift, body := s.beginBody f } ∧
    ((∀ d, f.body ≠ .ack d ∧ f.body ≠ .wait d) → s.beginBody f = f.body) ∧
    ∀ h c d, f.owner = some h → s.conv h = some c →
      (f.body = .ack d → s.beginBody f = .ack c.delivered) ∧ (f.body = .wait d → s.beginBody f = .wait c.delivered)) ∧
  (∀ (s : State) (p : Path),
     (∀ f, (s.path p).tx = some f → (s.path p).flush = false →
       Takes (.frameCompletion p) s (s.withPath p { s.path p with tx := none })) ∧
     (∀ f, (s.path p).tx = some f → (s.path p).flush = true →
       exec (.frameCompletion p) s =
         .next (chooseOut (s.withPath p { (s.path p).emptied with tx := none, flush := false }))) ∧
     ((s.path p).tx = none → exec (.frameCompletion p) s = .next s)) ∧
  ∀ (s : State) (p : Path) (r : PathRec), s.path p = r →
    ((r.tx ≠ none ∨ s.stc.nodeId = 0 ∨ s.stc.frameType = 0) → beginPort p s = s) ∧
    (r.tx = none → s.stc.nodeId ≠ 0 → s.stc.frameType ≠ 0 →
      ((r.state = .down ∨ r.state = .drained) → beginPort p s = s) ∧
      (r.state ≠ .down → r.state ≠ .drained →
        (∀ f l, r.class1 = f :: l →
          beginPort p s = s.withPath p { r with class1 := l, tx := some (s.begun p f) }) ∧
        (∀ f l, r.class1 = [] → r.state.inService = true → r.class2 = f :: l →
          beginPort p s = s.withPath p { r with class2 := l, tx := some (s.begun p f) }) ∧
        (∀ f l, r.class1 = [] → (r.state.inService = true → r.class2 = []) → r.class3 = f :: l →
          beginPort p s = s.withPath p { r with class3 := l, tx := some (s.begun p f) }) ∧
        (∀ f l, r.class1 = [] → r.state.inService = true → r.class2 = [] → r.class3 = [] → r.class4 = f :: l →
          beginPort p s = s.withPath p { r with class4 := l, tx := some (s.begun p f) }) ∧
        (r.class1 = [] → r.class3 = [] → r.state.inService = false → beginPort p s = s) ∧
        (r.queued = [] → r.state.inService = true →
          (s.dataTurn p = none → beginPort p s = s) ∧
          ∀ h c x e a, s.dataTurn p = some h → s.offer p h = some (c, x) → s.peer c.peer = some e →
            (e.links.get p).link = some a →
            beginPort p s =
              (s.withConv h
                { c with
                  journal := c.journal.map fun y =>
                    if y.seq = x.seq then { y with status := .sent, sentShift := some c.sendShift } else y
                  ackTimer :=
                    if c.ackTimer = .stopped then .ackWait (s.stc.time + c.ackInterval * 1000) else c.ackTimer }).withPath p
              { r with
                tx := some
                  { etherDst := a, etherSrc := portAddr p s.stc.nodeId, etherType := s.stc.frameType,
                    srcNode := s.stc.nodeId, dstNode := e.node, srcHandle := some h, dstHandle := c.peerHandle,
                    shift := c.sendShift,
                    body := .data x.seq x.kind ((KMap.get? s.rts.cells x.cell).getD []) }
                rotation := h })))

/-! ## Conversation timers -/

/-- The ack timer's expiry in ACK-WAIT below the retry limit is a round: 16 on the active path, the retry count, and then a
go-back of ordinary records, with the quiet point it reaches, or a same-path inquiry for a single-shot one; at the limit it is
a shift cause and adds nothing.  An unanswered attempt of an inquiry adds 16 and is repeated twice, the third is a shift cause.  A WAIT pause that ends goes
back, starts the ack timer for a SENT single-shot record, and may reach the quiet point (R38, R39, R41 to R43, R148).  The
INQUIRY of a same-path inquiry joins class 2 of the active path with a void request for the record, unless its copy stands
there (log entry 11) or the class is full (R42, R86).  The command carries station time to the expiry (log entry 2).  Where the round's own score has taken the conversation off its
path, the rest of the round only counts the retry (log entry 15).  The oldest SENT record is the first of the journal. -/
def Obligations.AckInquiryAndPauseExpiries : Prop :=
  (∀ l : List JRec, (oldestSent l = none ↔ ∀ x ∈ l, x.status ≠ .sent) ∧
    ∀ pre x post, l = pre ++ x :: post → x.status = .sent → (∀ y ∈ pre, y.status ≠ .sent) →
      oldestSent l = some x) ∧
  (∀ (t : State) (h v : Nat) (c : Conv) (p : Path), (t.linkOn c.peer p = none → queueInquiry h c p v t = t) ∧
    ∀ e a f, t.peer c.peer = some e → (e.links.get p).link = some a →
      f = answerTo e a (some h) c.peerHandle c.sendShift (.inquiry (some v)) (some h) →
      queueInquiry h c p v t =
        t.withPath p { t.path p with
          class2 :=
            if f ∈ (t.path p).class2 ∨ 64 ≤ (t.path p).class2.length then (t.path p).class2
            else (t.path p).class2 ++ [f] }) ∧
  ∀ (s : State) (h : Nat) (c : Conv), s.inReset = false → s.conv h = some c →
    (∀ x, c.ackTimer = .ackWait x →
      (c.retryLimit ≤ c.retryCount → Takes (.ackTimerExpiry h) s (shiftCause true h (s.atTime x))) ∧
      (c.retryCount < c.retryLimit → ∀ p w, c.active = some p → w = addScore p 16 (s.atTime x) →
        (w.conv h = some c →
          (∀ r, oldestSent c.journal = some r → r.kind = .ordinary →
            Takes (.ackTimerExpiry h) s
              (quietPoint h (w.withConv h
                { c with retryCount := c.retryCount + 1, journal := goBack c.journal, ackTimer := .stopped }))) ∧
          (∀ r, oldestSent c.journal = some r → r.kind = .singleShot →
            Takes (.ackTimerExpiry h) s
              (queueInquiry h c p r.seq (w.withConv h
                { c with
                  retryCount := c.retryCount + 1
                  ackTimer := .inquiry 1 r.seq (max s.stc.time x + s.stc.inquiryTimeout * 1000) })))) ∧
        (∀ b, w.conv h = some b → b.active = none →
          Takes (.ackTimerExpiry h) s (w.withConv h { b with retryCount := b.retryCount + 1 })))) ∧
    (∀ n v x p w, c.ackTimer = .inquiry n v x → c.active = some p → w = addScore p 16 (s.atTime x) →
      (w.conv h = some c → n < 3 →
        Takes (.inquiryTimerExpiry h) s
          (queueInquiry h c p v (w.withConv h
            { c with ackTimer := .inquiry (n + 1) v (max s.stc.time x + s.stc.inquiryTimeout * 1000) }))) ∧
      (w.conv h = some c → 3 ≤ n → Takes (.inquiryTimerExpiry h) s (shiftCause true h w)) ∧
      (∀ b, w.conv h = some b → b.active = none → Takes (.inquiryTimerExpiry h) s w)) ∧
    (∀ x, c.waitPause = some x →
      Takes (.waitPauseExpiry h) s
        (quietPoint h ((s.atTime x).withConv h
          { c with
            journal := goBack c.journal
            waitPause := none
            ackTimer :=
              if hasSent (goBack c.journal) = true then .ackWait (max s.stc.time x + c.ackInterval * 1000)
              else .stopped })))

/-- The open timer's expiry takes the second attempt of its path if that is usable, else the first attempt of the first
usable path that follows it in the list, and with none the conversation lapses OPEN-FAILED.  The close timer's expiry below
the retry limit adds 16, counts, queues the CLOSE again, unless its copy stands there (log entry 11) or class 2 is full, and
starts the timer again; at the limit it is a shift cause (R7, R17, R86).  The command carries station time to the expiry (log entry 2);
where the expiry's own score has taken the conversation off its path, it only counts the retry (log entry 15). -/
def Obligations.OpenAndCloseTimersRepeatTheirFrames : Prop :=
  (∀ (pre post : List Path) (p : Path), p ∉ pre → pathsAfter (pre ++ p :: post) p = post) ∧
  ∀ (s : State) (h : Nat) (c : Conv), s.inReset = false → s.conv h = some c →
    (∀ x p n, c.openTimer = some x → c.openAttempt = some (p, n) →
      (n = 1 → s.usable c.peer p = true → Takes (.openTimerExpiry h) s (openAttempt h p 2 (s.atTime x))) ∧
      ((n ≠ 1 ∨ s.usable c.peer p = false) →
        (∀ q, (pathsAfter c.prefs p).find? (s.usable c.peer) = some q →
          Takes (.openTimerExpiry h) s (openAttempt h q 1 (s.atTime x))) ∧
        ((pathsAfter c.prefs p).find? (s.usable c.peer) = none →
          Takes (.openTimerExpiry h) s (lapse h .openFailed (s.atTime x))))) ∧
    (∀ q n e a u, s.peer c.peer = some e → (e.links.get q).link = some a → u = openAttempt h q n s →
      u.conv h = some { c with
        openAttempt := some (q, n), openTimer := some (s.stc.time + s.stc.openTimeout * 1000) } ∧
      (∀ j, j ≠ h → u.conv j = s.conv j) ∧
      ((∀ f ∈ (s.path q).class2, f.isOpen = true → f.srcHandle ≠ some h) → (s.path q).class2.length < 64 →
        (u.path q).class2 = (s.path q).class2 ++ [answerTo e a (some h) none 0 .openFrame (some h)])) ∧
    (∀ x, c.closeTimer = some x →
      (c.retryLimit ≤ c.retryCount → Takes (.closeTimerExpiry h) s (shiftCause true h (s.atTime x))) ∧
      (c.retryCount < c.retryLimit → ∀ p w, c.active = some p → w = addScore p 16 (s.atTime x) →
        (w.conv h = some c → ∀ e a f, s.peer c.peer = some e → (e.links.get p).link = some a →
          f = answerTo e a (some h) c.peerHandle 0 (.close c.highest) (some h) →
          Takes (.closeTimerExpiry h) s
            ((w.withConv h
                { c with retryCount := c.retryCount + 1,
                         closeTimer := some (max s.stc.time x + c.ackInterval * 1000) }).withPath p
              { w.path p with
                class2 :=
                  if f ∈ (w.path p).class2 ∨ 64 ≤ (w.path p).class2.length then (w.path p).class2
                  else (w.path p).class2 ++ [f] })) ∧
        ∀ b, w.conv h = some b → b.active = none →
          Takes (.closeTimerExpiry h) s (w.withConv h { b with retryCount := b.retryCount + 1 })))

/-- The hold's expiry ends the hold with its mark and HOLD-EXPIRED, and a WITHHELD conversation joins the shift queue; the
park expiry, the park limit after the park start, lapses a PARKED conversation (R128, R146).  The command carries station time
to the expiry (log entry 2); with the park limit 0 there is no expiry, and the command changes nothing (log entry 6). -/
def Obligations.HoldAndParkExpiries : Prop :=
  ∀ (s : State) (h : Nat) (c : Conv), s.inReset = false → s.conv h = some c →
    (∀ x, c.hold = some x →
      (c.state ≠ .withheld →
        Takes (.holdExpiry h) s
          (raiseConv h .holdExpired ((s.atTime x).withConv h { c with hold := none, holdExpired := true }))) ∧
      (c.state = .withheld →
        Takes (.holdExpiry h) s
          (enterQueue h
            (raiseConv h .holdExpired ((s.atTime x).withConv h { c with hold := none, holdExpired := true }))))) ∧
    ∀ x, c.state = .parked → c.parkStart = some x →
      (s.stc.parkLimit ≠ 0 →
        Takes (.parkExpiry h) s (lapse h .parkExpired (s.atTime (x + s.stc.parkLimit * 1000000)))) ∧
      (s.stc.parkLimit = 0 → Takes (.parkExpiry h) s s)

/-- The hold-off's expiry chooses the slot's candidate, and the third unanswered attempt gives it up for the next: the forced
target if it can be taken, else the first SOUND path of the list, else the first SUSPECT one, none of them tried; the slot
then inquires there, or frees with its conversation PARKED.  An earlier unanswered attempt is repeated; each adds 16 to the
candidate (R133 to R136).  Each command carries station time to the expiry (log entry 2); where the attempt's own score has
changed the slot nothing more follows (log entry 15).  Giving up: the candidate joins the tried set, the peer is marked there
and the slot chooses again.  A marking of an entry with a link address that is not UNREACHABLE makes its miss count the limit
and the peer UNREACHABLE: the shift cause to its conversations active there, the report to the slots whose candidate it is,
the PEER-ALL test, REACHABILITY; any other marking changes nothing.  The report drops the candidate of a slot: its INQUIRY
withdrawn, its timer stopped, its choice made again, and changes no other slot; several are told in ascending slot number
(log entry 35) (R117, R119, R136, R137).  Every unbegun INQUIRY of the conversation goes from the lost path, one that an
earlier shift left there included (log entry 39).  The copy that keeps an INQUIRY out of class 2 is an equal frame (log entry 11). -/
def Obligations.SlotTimersChooseAndInquire : Prop :=
  (∀ (s : State) (k : Nat) (sl : Slot) (c : Conv), s.inReset = false → s.slot k = some sl →
    s.conv sl.handle = some c →
    (∀ x, sl.phase = .holdOff → sl.timer = some x →
      (∀ p, s.candidate c sl.tried = some p →
        ∃ z : Slot, z = { handle := sl.handle, phase := .inquiring, newShift := sl.newShift, candidate := some p,
                          tried := sl.tried, attempt := some 1, void := (sentSingle c.journal).map JRec.seq,
                          timer := some (max s.stc.time x + s.stc.inquiryTimeout * 1000) } ∧
          Takes (.holdOffExpiry k) s (grantAll (queueSlotInquiry z c p (setSlot k z (s.atTime x))))) ∧
      (s.candidate c sl.tried = none →
        Takes (.holdOffExpiry k) s (grantAll (park sl.handle (freeSlot k (s.atTime x)))))) ∧
    (∀ x p n w, sl.phase = .inquiring → sl.candidate = some p → sl.attempt = some n → sl.timer = some x →
      w = addScore p 16 (s.atTime x) →
      (w.slot k = some sl → n < 3 → ∀ b, w.conv sl.handle = some b →
        ∃ z : Slot, z = { sl with attempt := some (n + 1),
                                  timer := some (max s.stc.time x + s.stc.inquiryTimeout * 1000) } ∧
          Takes (.slotInquiryExpiry k) s (queueSlotInquiry z b p (setSlot k z w))) ∧
      (w.slot k = some sl → 3 ≤ n → Takes (.slotInquiryExpiry k) s (giveUp k sl p w)) ∧
      (w.slot k ≠ some sl → Takes (.slotInquiryExpiry k) s w)) ∧
    (∀ tried p, s.candidate c tried = some p →
      p ∉ tried ∧ p ∈ c.prefs ∧ s.usable c.peer p = true ∧
        (∀ f, c.forced = some f → f ∉ tried → f ∈ c.prefs → s.usable c.peer f = true → p = f) ∧
        ((∀ f, c.forced = some f → f ∈ tried ∨ f ∉ c.prefs ∨ s.usable c.peer f = false) →
          (s.path p).state = .suspect →
          ∀ q ∈ c.prefs, q ∉ tried → s.usable c.peer q = true → (s.path q).state = .suspect)) ∧
    ∀ tried, s.candidate c tried = none ↔ ∀ p ∈ c.prefs, p ∉ tried → s.usable c.peer p = false) ∧
  (∀ (s : State) (c : Conv) (tried : List Path),
    (∀ f, c.forced = some f → f ∈ tried ∨ f ∉ c.prefs ∨ s.usable c.peer f = false) →
    s.candidate c tried =
      ((c.prefs.find? fun q => decide (q ∉ tried) && s.usable c.peer q && decide ((s.path q).state = .sound)).or
        (c.prefs.find? fun q => decide (q ∉ tried) && s.usable c.peer q && decide ((s.path q).state = .suspect)))) ∧
  (∀ (s : State) (k : Nat) (sl : Slot) (c : Conv), s.slot k = some sl → s.conv sl.handle = some c →
    (∀ p z, s.candidate c sl.tried = some p →
      z = { sl with
        phase := .inquiring, candidate := some p, attempt := some 1,
        void := if sl.phase = .holdOff then (sentSingle c.journal).map JRec.seq else sl.void,
        timer := some (s.stc.time + s.stc.inquiryTimeout * 1000) } →
      choose k s = grantAll (queueSlotInquiry z c p (setSlot k z s))) ∧
    (s.candidate c sl.tried = none → choose k s = grantAll (park sl.handle (freeSlot k s))) ∧
    (∀ p e a f, s.peer c.peer = some e → (e.links.get p).link = some a →
      f = answerTo e a (some sl.handle) c.peerHandle sl.newShift (.inquiry sl.void) (some sl.handle) →
      queueSlotInquiry sl c p s = s.withPath p { s.path p with
        class2 :=
          if f ∈ (s.path p).class2 ∨ 64 ≤ (s.path p).class2.length then (s.path p).class2
          else (s.path p).class2 ++ [f] }) ∧
    (∀ p, giveUp k sl p s =
      choose k (markPeer c.peer p
        (setSlot k { sl with tried := insertIn Path.all p sl.tried, candidate := none, attempt := none, timer := none }
          s))) ∧
    ∀ p, (sl.candidate = some p →
        dropCandidate k s =
          choose k
            (setSlot k
              { sl with candidate := none, attempt := none, timer := none, tried := insertIn Path.all p sl.tried }
              (s.withPath p { s.path p with
                class2 := (s.path p).class2.filter fun f =>
                  !(decide (f.owner = some sl.handle) && f.body.isInquiry) }))) ∧
      (sl.candidate = none → dropCandidate k s = s)) ∧
  (∀ (s : State) (k : Nat) (p : Path) (e : Peer), s.peer k = some e →
    (((e.links.get p).link = none ∨ (e.links.get p).reach = .unreachable) → markPeer k p s = s) ∧
    ((e.links.get p).link ≠ none → (e.links.get p).reach ≠ .unreachable →
      ∃ u v, u = { s with prt := { s.prt with
          peers := KMap.set s.prt.peers k { e with
            links := e.links.set p
              { e.links.get p with miss := (s.path p).missLimit, heard := false, reach := .unreachable } } } } ∧
        PeerAllTested p (fun _ => True)
          (dropCandidates p (some k)
            ((s.handles.filter fun h =>
                (s.conv h).any fun c => decide (c.active = some p) && decide (c.peer = k)).foldl
              (fun t h => shiftCause true h t) u)) v ∧
        markPeer k p s = raisePeer k .reachability v)) ∧
  ∀ (s : State) (p : Path) (peer : Option Nat),
    dropCandidates p peer s =
      s.slotsInUse.foldl (fun t k => if t.slotOn p peer k = true then dropCandidate k t else t) s ∧
    ∀ k, s.slotOn p peer k = true ↔
      ∃ sl, s.slot k = some sl ∧ sl.candidate = some p ∧
        ∀ n, peer = some n → ∃ c, s.conv sl.handle = some c ∧ c.peer = n

/-! ## Operations that many events share -/

/-- A score event on a live path is clamped at 255 and 0 and compared with the thresholds of its state: SOUND at 128 or more
becomes SUSPECT and SUSPECT below 96 becomes SOUND, STATE being raised, and on SOUND the PARKED conversations that list and
can use the path are cued (R77); PROVING keeps its state; on a path that is not live it changes nothing (R78, R79).  A score
that reaches 255 from below is then handed as the SCORE condition, which quenches a path that enables the source; one that
stands at 255 is not handed again (R79). -/
def Obligations.AScoreEventIsClampedAndCompared : Prop :=
  (∀ (s : State) (p : Path) (n : Nat),
    ((s.path p).state.live = false → addScore p n s = s ∧ lowerScore p s = s) ∧
    ∀ v u, ((v = (s.path p).score + n ∧ u = addScore p n s) ∨ (v = (s.path p).score - 1 ∧ u = lowerScore p s)) →
      (s.path p).state.live = true → v < 255 →
      (u.path p).score = v ∧
      (u.path p).state =
        (if (s.path p).state = .sound ∧ 128 ≤ v then .suspect
         else if (s.path p).state = .suspect ∧ v < 96 then .sound
         else (s.path p).state) ∧
      ((u.path p).state ≠ (s.path p).state → .state ∈ u.ntu.paths.get p) ∧
      (∀ q, (u.path q).cause = (s.path q).cause ∧ (q ≠ p → (u.path q).score = (s.path q).score ∧
        (u.path q).state = (s.path q).state)) ∧ u.stc = s.stc ∧ u.prt = s.prt) ∧
  ∀ (s : State) (p : Path) (n v : Nat) (r : PathRec) (u w : State), s.path p = r → r.state.live = true →
    ((v = min 255 (r.score + n) ∧ u = addScore p n s) ∨ (v = r.score - 1 ∧ u = lowerScore p s)) →
    w = (if r.state = .sound ∧ 128 ≤ v then
          raisePath p .state (s.withPath p { r with score := v, state := .suspect })
        else if r.state = .suspect ∧ v < 96 then
          cueAll none p (raisePath p .state (s.withPath p { r with score := v, state := .sound }))
        else s.withPath p { r with score := v }) →
    (v = 255 → r.score < 255 → .score ∈ r.sources → u = quenchPath p .score w) ∧
    ((v ≠ 255 ∨ 255 ≤ r.score ∨ .score ∉ r.sources) → u = w)

/-- A shift cause takes a CARRYING conversation off its path with its timers stopped and its journal and retry count kept:
WITHHELD when automatic and held, else SHIFT-QUEUED; its class-2 frames leave the old path; a reattach cue moves a PARKED
conversation in the same way; any other conversation takes neither.  Joining, COMMIT-FIRST entries stand before ORDINARY ones
and behind their own class; stated with no slot free, so that the entry waits, and then in general, the open grants following
at once (R123, R124, R126, R129, R131, R145).  Leaving service hands the cause to each conversation active on the path,
ascending, then the report to the slots whose candidate it is, then chooses the withdrawn acknowledgements again, in the order
of their old queue (log entry 36) (R81).  The cues of a path go to the PARKED conversations, of one peer or of all, that have
the path in their preference list and can use it, SOUND or SUSPECT with the peer REACHABLE there (R5, R68, R77, R118), in
ascending handle order: of states whose tables are in canonical form, which every step keeps
(`EveryStepKeepsTheCellsInBalance`); R68 names no order, and that its cues follow the order of R77 is log entry 28. -/
def Obligations.CausesAndCuesMoveConversations : Prop :=
  (∀ (s : State) (k : Option Nat) (p : Path),
    cueAll k p s = (s.handles.filter (s.cueable k p)).foldl (fun t h => cue h t) s ∧
    (∀ h, h ∈ s.handles ↔ ∃ c, s.conv h = some c) ∧ (TablesCanonical s → s.handles.Pairwise (· < ·)) ∧
    ∀ h, s.cueable k p h = true ↔
      ∃ c, s.conv h = some c ∧ c.state = .parked ∧ p ∈ c.prefs ∧ s.usable c.peer p = true ∧
        ∀ n, k = some n → c.peer = n) ∧
  (∀ (s : State) (k : Nat) (p : Path), s.usable k p = true ↔
    ((s.path p).state = .sound ∨ (s.path p).state = .suspect) ∧
      ∃ e, s.peer k = some e ∧ (e.links.get p).reach = .reachable) ∧
  (∀ (s : State) (h : Nat) (c : Conv) (q : List QueueEntry), s.conv h = some c →
    q = (if ∃ x ∈ c.journal, x.status = .sent ∧ x.kind = .singleShot then
          s.she.queue.takeWhile (fun e => decide (e.cls = .commitFirst)) ++
            ⟨h, .commitFirst⟩ :: s.she.queue.dropWhile (fun e => decide (e.cls = .commitFirst))
        else s.she.queue ++ [⟨h, .ordinary⟩]) →
    enterQueue h s =
      grantAll { s.withConv h { c with state := .shiftQueued } with she := { s.she with queue := q } }) ∧
  (∀ s : State, (s.freeSlotNo = none ↔ ∀ k, k < 8 → s.slot k ≠ none) ∧
    ∀ k, s.freeSlotNo = some k ↔ k < 8 ∧ s.slot k = none ∧ ∀ j, j < k → s.slot j ≠ none) ∧
  (∀ (s : State) (h : Nat) (c : Conv), s.conv h = some c →
    (c.state ≠ .carrying → ∀ a, shiftCause a h s = s) ∧ (c.state ≠ .parked → cue h s = s) ∧
    (c.state = .carrying → c.hold ≠ none →
      ∃ t, t = shiftCause true h s ∧ .withheld ∈ reasonsAt t.ntu.convs h ∧ t.she = s.she ∧
        t.conv h = some { c with
          state := .withheld, active := none, ackTimer := .stopped, waitPause := none, closeTimer := none,
          closeStage := if c.closeStage = .closeSent then .draining else c.closeStage } ∧
        ∀ p, c.active = some p →
          (t.path p).class2 = (s.path p).class2.filter fun f => decide (f.owner ≠ some h)) ∧
    (c.state = .carrying → s.freeSlotNo = none → ∀ a, (a = false ∨ c.hold = none) →
      ∃ t, t = shiftCause a h s ∧ t.ntu = s.ntu ∧ t.she.slots = s.she.slots ∧
        t.conv h = some { c with
          state := .shiftQueued, active := none, ackTimer := .stopped, waitPause := none, closeTimer := none,
          closeStage := if c.closeStage = .closeSent then .draining else c.closeStage } ∧
        (∀ j, j ≠ h → t.conv j = s.conv j) ∧
        t.she.queue =
          if (sentSingle c.journal).isSome = true then
            s.she.queue.takeWhile (fun e => decide (e.cls = .commitFirst)) ++
              ⟨h, .commitFirst⟩ :: s.she.queue.dropWhile (fun e => decide (e.cls = .commitFirst))
          else s.she.queue ++ [⟨h, .ordinary⟩]) ∧
    (c.state = .parked →
      (c.hold ≠ none →
        cue h s = raiseConv h .withheld (s.withConv h { c with state := .withheld, parkStart := none })) ∧
      (c.hold = none → s.freeSlotNo = none →
        (cue h s).conv h = some { c with state := .shiftQueued, parkStart := none } ∧
        (cue h s).she.queue.length = s.she.queue.length + 1))) ∧
  (∀ (s : State) (h : Nat) (c : Conv) (q : List QueueEntry), s.conv h = some c →
    q = (if (sentSingle c.journal).isSome = true then
          s.she.queue.takeWhile (fun e => decide (e.cls = .commitFirst)) ++
            ⟨h, .commitFirst⟩ :: s.she.queue.dropWhile (fun e => decide (e.cls = .commitFirst))
        else s.she.queue ++ [⟨h, .ordinary⟩]) →
    (∀ a p, c.state = .carrying → c.active = some p → (a = false ∨ c.hold = none) →
      shiftCause a h s = grantAll
        { (s.withConv h { c with
              state := .shiftQueued, active := none, ackTimer := .stopped, waitPause := none, closeTimer := none,
              closeStage := if c.closeStage = .closeSent then .draining else c.closeStage }).withPath p
            { s.path p with class2 := (s.path p).class2.filter fun f => decide (f.owner ≠ some h) } with
          she := { s.she with queue := q } }) ∧
    (c.state = .parked → c.hold = none →
      cue h s = grantAll
        { s.withConv h { c with state := .shiftQueued, parkStart := none } with she := { s.she with queue := q } })) ∧
  (∀ s : State, s.freeSlotNo = none → grantAll s = s) ∧
  ∀ (s : State) (p : Path) (acks : List QFrame) (u : State),
    u = (s.handles.filter fun h => (s.conv h).any fun c => decide (c.active = some p)).foldl
      (fun t h => shiftCause true h t) s →
    leaveService p acks s = acks.foldl (fun t f => replaceAck f t) (dropCandidates p none u) ∧
    ∀ (t : State) (f : QFrame) (h : Nat), f.owner = some h → (∀ c, t.conv h = some c → c.state ≠ .lapsed) →
      (∀ q, ∀ g ∈ (t.path q).class4, g.owner ≠ some h) →
      replaceAck f t = requestAck h f.body.isWait none t

/-- A slot grant: a staged list becomes the preference list, the send shift number rises, the lowest free slot enters HOLD-OFF
for the conversation with its hold-off, SHIFT-BEGUN is raised; at the last send shift number it lapses NOT-KNOWN instead.
Stated for an entry alone in the queue and a hold-off that is not 0 (R131, R132), and then for every queue and every
hold-off: while a slot is free the head leaves the queue for the lowest one, and the other grants follow; a hold-off of 0
ends at once, the candidate being chosen within the grant.  The forced target and every journal record, with its sent shift,
are kept.  At the last send shift number no list is applied and neither STAGED-APPLIED nor SHIFT-BEGUN is raised. -/
def Obligations.AGrantBeginsAShift : Prop :=
  (∀ (s : State) (h k : Nat) (c : Conv) (cls : ShiftClass), s.conv h = some c → s.she.queue = [⟨h, cls⟩] →
    s.freeSlotNo = some k →
    (k < 8 ∧ s.slot k = none ∧ ∀ j, j < k → s.slot j ≠ none) ∧
    (c.sendShift = 4294967295 → c.state ≠ .lapsed →
      ∃ d, (grantAll s).conv h = some d ∧ d.state = .lapsed ∧ d.lapseReason = some .notKnown ∧
        d.sendShift = c.sendShift ∧ d.prefs = c.prefs ∧ d.staged = c.staged ∧ (grantAll s).she.queue = []) ∧
    (c.sendShift ≠ 4294967295 → c.holdOff ≠ 0 →
      ∃ t, t = grantAll s ∧ t.she.queue = [] ∧
        t.conv h = some { c with
          state := .shifting, sendShift := c.sendShift + 1, prefs := c.staged.getD c.prefs, staged := none } ∧
        t.slot k = some
          { handle := h, phase := .holdOff, newShift := c.sendShift + 1, candidate := none, tried := [],
            attempt := none, void := none, timer := some (s.stc.time + c.holdOff * 1000) } ∧
        (∀ j, j ≠ k → t.slot j = s.slot j) ∧ (∀ j, j ≠ h → t.conv j = s.conv j) ∧
        .shiftBegun ∈ reasonsAt t.ntu.convs h ∧ (c.staged ≠ none → .stagedApplied ∈ reasonsAt t.ntu.convs h) ∧
        t.paths = s.paths ∧ t.stc = s.stc)) ∧
  ∀ (s u : State) (h k : Nat) (c : Conv) (cls : ShiftClass) (rest : List QueueEntry), s.conv h = some c →
    s.she.queue = ⟨h, cls⟩ :: rest → s.freeSlotNo = some k → u = { s with she := { s.she with queue := rest } } →
    (c.sendShift = 4294967295 → c.state ≠ .lapsed →
      ∃ t d, grantAll s = grantAll t ∧ t.conv h = some d ∧ d.state = .lapsed ∧ d.lapseReason = some .notKnown ∧
        d.sendShift = c.sendShift ∧ d.prefs = c.prefs ∧ d.staged = c.staged ∧
        (∀ j, j ≠ h → t.conv j = s.conv j) ∧ (∀ x ∈ t.she.slots, x.2.handle ≠ h) ∧
        t.she.queue = rest.filter (fun x => decide (x.handle ≠ h)) ∧
        ∀ r, r ∈ reasonsAt t.ntu.convs h → r ∈ reasonsAt s.ntu.convs h ∨ r = .lapsed) ∧
    (c.sendShift ≠ 4294967295 →
      ∃ t, t.conv h = some { c with
          state := .shifting, sendShift := c.sendShift + 1, prefs := c.staged.getD c.prefs, staged := none } ∧
        t.slot k = some
          { handle := h, phase := .holdOff, newShift := c.sendShift + 1, candidate := none, tried := [],
            attempt := none, void := none, timer := some (s.stc.time + c.holdOff * 1000) } ∧
        t.she.queue = rest ∧ (∀ j, j ≠ k → t.slot j = s.slot j) ∧ (∀ j, j ≠ h → t.conv j = s.conv j) ∧
        .shiftBegun ∈ reasonsAt t.ntu.convs h ∧
        (∀ r, r ∈ reasonsAt t.ntu.convs h ↔
          r ∈ reasonsAt s.ntu.convs h ∨ r = .shiftBegun ∨ r = .stagedApplied ∧ c.staged ≠ none) ∧
        t.paths = s.paths ∧ t.stc = s.stc ∧
        (c.holdOff ≠ 0 → grantAll s = grantAll t) ∧
        (c.holdOff = 0 → ∀ b z, t.conv h = some b → t.slot k = some z →
          (∀ p, t.candidate b [] = some p → ∀ y,
            y = { z with
              phase := .inquiring, candidate := some p, attempt := some 1,
              void := (sentSingle c.journal).map JRec.seq,
              timer := some (s.stc.time + s.stc.inquiryTimeout * 1000) } →
            grantAll s = grantAll (queueSlotInquiry y b p (setSlot k y t))) ∧
          (t.candidate b [] = none → grantAll s = grantAll (park h (freeSlot k t)))))

/-- A lapse keeps the record with its reason, drops its hold, path, attempt and timers, makes WAITING and SENT records UNSURE
and takes it off the shift queue and every transmit queue; becoming VACANT removes the record, returns its cells, discards
its deliveries and its queued frames, and freezes CLOSED with the last snapshot.  A DELIVER of it in transmission is
ORPHANED.  The deliveries, frames and slots of other conversations stay, in their order, as does every other block; stated
with the shift queue empty, so that no grant follows, whose place among the steps is log entry 38 (R1, R21, R48, R54, R61,
R175).  That the cells return in journal order is log entry 34, and that the snapshot's
RETURNED fields are read before the journal is emptied is log entry 37. -/
def Obligations.LapsingAndBecomingVacant : Prop :=
  ∀ (s : State) (h : Nat) (c : Conv), s.conv h = some c → s.she.queue = [] →
    (c.state = .lapsed → ∀ why, lapse h why s = s) ∧
    (c.state ≠ .lapsed → ∀ why, ∃ t, t = lapse h why s ∧
      t.conv h = some { c with
        state := .lapsed, lapseReason := some why, active := none, forced := none, openAttempt := none,
        ackPath := none, parkStart := none, hold := none, ackTimer := .stopped, waitPause := none,
        openTimer := none, closeTimer := none, retryCount := 0,
        journal := c.journal.map fun r =>
          if r.status = .waiting ∨ r.status = .sent then { r with status := .unsure } else r } ∧
      (∀ j, j ≠ h → t.conv j = s.conv j) ∧ .lapsed ∈ reasonsAt t.ntu.convs h ∧ t.rts = s.rts ∧ t.dlq = s.dlq ∧
      (∀ j, j ≠ h → reasonsAt t.ntu.convs j = reasonsAt s.ntu.convs j) ∧
      (∀ e ∈ t.she.slots, e.2.handle ≠ h) ∧ (∀ k sl, s.slot k = some sl → sl.handle ≠ h → t.slot k = some sl) ∧
      t.she.queue = [] ∧ (∀ p, t.path p = (s.path p).without h) ∧ t.prt = s.prt ∧ t.hlu = s.hlu ∧ t.stc = s.stc ∧
      t.pending = s.pending ∧ t.inReset = s.inReset) ∧
    ∃ t, t = vacate h s ∧ t.conv h = none ∧ (∀ j, j ≠ h → t.conv j = s.conv j) ∧
      t.rts.free = s.rts.free ++ c.journal.map JRec.cell ∧
      (∀ n, n ∉ c.journal.map JRec.cell → KMap.get? t.rts.cells n = KMap.get? s.rts.cells n) ∧
      (∀ j, j ≠ h → reasonsAt t.ntu.convs j = reasonsAt s.ntu.convs j) ∧
      t.dlq.entries = s.dlq.entries.filter (fun e => decide (e.handle ≠ h)) ∧
      (s.dlq.entries = [] → t.dlq.tx = s.dlq.tx) ∧
      (∀ e l, s.dlq.entries = e :: l →
        t.dlq.tx = if s.dlq.tx = .head ∧ e.handle = h then .orphaned else s.dlq.tx) ∧
      (∀ e ∈ t.she.slots, e.2.handle ≠ h) ∧ (∀ k sl, s.slot k = some sl → sl.handle ≠ h → t.slot k = some sl) ∧
      t.she.queue = [] ∧ (∀ p, t.path p = (s.path p).without h) ∧ t.prt = s.prt ∧ t.hlu = s.hlu ∧ t.stc = s.stc ∧
      t.pending = s.pending ∧ t.inReset = s.inReset ∧
      (∃ z, KMap.get? t.ntu.closing h = some z ∧ .closed ∈ z.reasons ∧ z.snapshot = c.snapshotAs none) ∧
      reasonsAt t.ntu.convs h = []

/-- A request for an ACK or a WAIT of a conversation that is neither VACANT nor LAPSED: a pending one takes the kind and keeps
its place; else a new one joins class 4 of the first path that qualifies: the arrival path, the ack path, the active path,
the first usable path of the list; with none it is dropped (R62).  Its shift number is the inbound one as it is queued, kept
when its kind changes (log entry 12); its delivered-through is read again when it is begun (R63). -/
def Obligations.AcknowledgementsAreRequestedOnce : Prop :=
  (∀ (s : State) (h : Nat) (w : Bool) (own : Option Path) (c : Conv), s.conv h = some c →
    (c.state = .lapsed → requestAck h w own s = s) ∧
    (c.state ≠ .lapsed → (∃ p, ∃ f ∈ (s.path p).class4, f.owner = some h) →
      ∃ t, t = requestAck h w own s ∧ t.convs = s.convs ∧
        ∀ p, t.path p = { s.path p with
          class4 := (s.path p).class4.map fun f =>
            if f.owner = some h then
              { f with body := if w = true then .wait c.delivered else .ack c.delivered }
            else f }) ∧
    (c.state ≠ .lapsed → (∀ p, ∀ f ∈ (s.path p).class4, f.owner ≠ some h) →
      (s.ackPathFor c own = none → requestAck h w own s = s) ∧
      ∀ p e a, s.ackPathFor c own = some p → s.peer c.peer = some e → (e.links.get p).link = some a →
        requestAck h w own s = s.withPath p { s.path p with
          class4 := (s.path p).class4 ++
            [answerTo e a (some h) c.peerHandle c.inShift
              (if w = true then .wait c.delivered else .ack c.delivered) (some h)] }) ∧
    (∀ p, own = some p → (s.path p).state.inService = true → s.ackPathFor c own = some p) ∧
    ((own = none ∨ ∃ p, own = some p ∧ (s.path p).state.inService = false) →
      (∀ p, c.ackPath = some p → (s.path p).state.inService = true → s.ackPathFor c own = some p) ∧
      ((∀ p, c.ackPath = some p → (s.path p).state.inService = false) →
        (∀ p, c.active = some p → s.ackPathFor c own = some p) ∧
        (c.active = none → s.ackPathFor c own = c.prefs.find? (s.usable c.peer))))) ∧
  ∀ (s : State) (f : QFrame) (h : Nat) (c : Conv), f.owner = some h → s.conv h = some c →
    (∀ d, f.body = .ack d → s.beginBody f = .ack c.delivered) ∧ ∀ d, f.body = .wait d → s.beginBody f = .wait c.delivered
end

