-- ==== Sys2Proof/Laws/State.lean ====
section
/-! SUPPORT. What each named update leaves in each block of the state, true by unfolding. -/

namespace Sys2Proof.Machine

@[simp] theorem setConv_pending (h : Nat) (c : Conv) (s : State) : (setConv h c s).pending = s.pending := rfl
@[simp] theorem setConv_inReset (h : Nat) (c : Conv) (s : State) : (setConv h c s).inReset = s.inReset := rfl
@[simp] theorem setConv_stc (h : Nat) (c : Conv) (s : State) : (setConv h c s).stc = s.stc := rfl
@[simp] theorem setConv_convs (h : Nat) (c : Conv) (s : State) : (setConv h c s).convs = KMap.set s.convs h c := rfl
@[simp] theorem setConv_rts (h : Nat) (c : Conv) (s : State) : (setConv h c s).rts = s.rts := rfl
@[simp] theorem setConv_dlq (h : Nat) (c : Conv) (s : State) : (setConv h c s).dlq = s.dlq := rfl
@[simp] theorem setConv_paths (h : Nat) (c : Conv) (s : State) : (setConv h c s).paths = s.paths := rfl
@[simp] theorem setConv_prt (h : Nat) (c : Conv) (s : State) : (setConv h c s).prt = s.prt := rfl
@[simp] theorem setConv_she (h : Nat) (c : Conv) (s : State) : (setConv h c s).she = s.she := rfl
@[simp] theorem setConv_hlu (h : Nat) (c : Conv) (s : State) : (setConv h c s).hlu = s.hlu := rfl
@[simp] theorem setConv_ntu (h : Nat) (c : Conv) (s : State) : (setConv h c s).ntu = s.ntu := rfl

@[simp] theorem updPath_pending (p : Path) (f : PathRec → PathRec) (s : State) :
    (updPath p f s).pending = s.pending := rfl
@[simp] theorem updPath_inReset (p : Path) (f : PathRec → PathRec) (s : State) :
    (updPath p f s).inReset = s.inReset := rfl
@[simp] theorem updPath_stc (p : Path) (f : PathRec → PathRec) (s : State) : (updPath p f s).stc = s.stc := rfl
@[simp] theorem updPath_convs (p : Path) (f : PathRec → PathRec) (s : State) : (updPath p f s).convs = s.convs := rfl
@[simp] theorem updPath_rts (p : Path) (f : PathRec → PathRec) (s : State) : (updPath p f s).rts = s.rts := rfl
@[simp] theorem updPath_dlq (p : Path) (f : PathRec → PathRec) (s : State) : (updPath p f s).dlq = s.dlq := rfl
@[simp] theorem updPath_paths (p : Path) (f : PathRec → PathRec) (s : State) :
    (updPath p f s).paths = s.paths.set p (f (s.path p)) := rfl
@[simp] theorem updPath_prt (p : Path) (f : PathRec → PathRec) (s : State) : (updPath p f s).prt = s.prt := rfl
@[simp] theorem updPath_she (p : Path) (f : PathRec → PathRec) (s : State) : (updPath p f s).she = s.she := rfl
@[simp] theorem updPath_hlu (p : Path) (f : PathRec → PathRec) (s : State) : (updPath p f s).hlu = s.hlu := rfl
@[simp] theorem updPath_ntu (p : Path) (f : PathRec → PathRec) (s : State) : (updPath p f s).ntu = s.ntu := rfl

@[simp] theorem setSlot_pending (k : Nat) (v : Slot) (s : State) : (setSlot k v s).pending = s.pending := rfl
@[simp] theorem setSlot_inReset (k : Nat) (v : Slot) (s : State) : (setSlot k v s).inReset = s.inReset := rfl
@[simp] theorem setSlot_stc (k : Nat) (v : Slot) (s : State) : (setSlot k v s).stc = s.stc := rfl
@[simp] theorem setSlot_convs (k : Nat) (v : Slot) (s : State) : (setSlot k v s).convs = s.convs := rfl
@[simp] theorem setSlot_rts (k : Nat) (v : Slot) (s : State) : (setSlot k v s).rts = s.rts := rfl
@[simp] theorem setSlot_dlq (k : Nat) (v : Slot) (s : State) : (setSlot k v s).dlq = s.dlq := rfl
@[simp] theorem setSlot_paths (k : Nat) (v : Slot) (s : State) : (setSlot k v s).paths = s.paths := rfl
@[simp] theorem setSlot_prt (k : Nat) (v : Slot) (s : State) : (setSlot k v s).prt = s.prt := rfl
@[simp] theorem setSlot_she (k : Nat) (v : Slot) (s : State) :
    (setSlot k v s).she = { s.she with slots := KMap.set s.she.slots k v } := rfl
@[simp] theorem setSlot_hlu (k : Nat) (v : Slot) (s : State) : (setSlot k v s).hlu = s.hlu := rfl
@[simp] theorem setSlot_ntu (k : Nat) (v : Slot) (s : State) : (setSlot k v s).ntu = s.ntu := rfl

@[simp] theorem freeSlot_pending (k : Nat) (s : State) : (freeSlot k s).pending = s.pending := rfl
@[simp] theorem freeSlot_inReset (k : Nat) (s : State) : (freeSlot k s).inReset = s.inReset := rfl
@[simp] theorem freeSlot_stc (k : Nat) (s : State) : (freeSlot k s).stc = s.stc := rfl
@[simp] theorem freeSlot_convs (k : Nat) (s : State) : (freeSlot k s).convs = s.convs := rfl
@[simp] theorem freeSlot_rts (k : Nat) (s : State) : (freeSlot k s).rts = s.rts := rfl
@[simp] theorem freeSlot_dlq (k : Nat) (s : State) : (freeSlot k s).dlq = s.dlq := rfl
@[simp] theorem freeSlot_paths (k : Nat) (s : State) : (freeSlot k s).paths = s.paths := rfl
@[simp] theorem freeSlot_prt (k : Nat) (s : State) : (freeSlot k s).prt = s.prt := rfl
@[simp] theorem freeSlot_she (k : Nat) (s : State) :
    (freeSlot k s).she = { s.she with slots := KMap.erase s.she.slots k } := rfl
@[simp] theorem freeSlot_hlu (k : Nat) (s : State) : (freeSlot k s).hlu = s.hlu := rfl
@[simp] theorem freeSlot_ntu (k : Nat) (s : State) : (freeSlot k s).ntu = s.ntu := rfl

@[simp] theorem leaveShift_pending (h : Nat) (s : State) : (leaveShift h s).pending = s.pending := rfl
@[simp] theorem leaveShift_inReset (h : Nat) (s : State) : (leaveShift h s).inReset = s.inReset := rfl
@[simp] theorem leaveShift_stc (h : Nat) (s : State) : (leaveShift h s).stc = s.stc := rfl
@[simp] theorem leaveShift_convs (h : Nat) (s : State) : (leaveShift h s).convs = s.convs := rfl
@[simp] theorem leaveShift_rts (h : Nat) (s : State) : (leaveShift h s).rts = s.rts := rfl
@[simp] theorem leaveShift_dlq (h : Nat) (s : State) : (leaveShift h s).dlq = s.dlq := rfl
@[simp] theorem leaveShift_paths (h : Nat) (s : State) : (leaveShift h s).paths = s.paths := rfl
@[simp] theorem leaveShift_prt (h : Nat) (s : State) : (leaveShift h s).prt = s.prt := rfl
@[simp] theorem leaveShift_hlu (h : Nat) (s : State) : (leaveShift h s).hlu = s.hlu := rfl
@[simp] theorem leaveShift_ntu (h : Nat) (s : State) : (leaveShift h s).ntu = s.ntu := rfl

@[simp] theorem raiseConv_pending (h : Nat) (r : Reason) (s : State) : (raiseConv h r s).pending = s.pending := rfl
@[simp] theorem raiseConv_inReset (h : Nat) (r : Reason) (s : State) : (raiseConv h r s).inReset = s.inReset := rfl
@[simp] theorem raiseConv_stc (h : Nat) (r : Reason) (s : State) : (raiseConv h r s).stc = s.stc := rfl
@[simp] theorem raiseConv_convs (h : Nat) (r : Reason) (s : State) : (raiseConv h r s).convs = s.convs := rfl
@[simp] theorem raiseConv_rts (h : Nat) (r : Reason) (s : State) : (raiseConv h r s).rts = s.rts := rfl
@[simp] theorem raiseConv_dlq (h : Nat) (r : Reason) (s : State) : (raiseConv h r s).dlq = s.dlq := rfl
@[simp] theorem raiseConv_paths (h : Nat) (r : Reason) (s : State) : (raiseConv h r s).paths = s.paths := rfl
@[simp] theorem raiseConv_prt (h : Nat) (r : Reason) (s : State) : (raiseConv h r s).prt = s.prt := rfl
@[simp] theorem raiseConv_she (h : Nat) (r : Reason) (s : State) : (raiseConv h r s).she = s.she := rfl
@[simp] theorem raiseConv_hlu (h : Nat) (r : Reason) (s : State) : (raiseConv h r s).hlu = s.hlu := rfl
@[simp] theorem raiseConv_ntu (h : Nat) (r : Reason) (s : State) :
    (raiseConv h r s).ntu = { s.ntu with convs := KMap.set s.ntu.convs h (insertIn Reason.all r (reasonsAt s.ntu.convs h)) } := rfl

@[simp] theorem raisePath_pending (p : Path) (r : Reason) (s : State) : (raisePath p r s).pending = s.pending := rfl
@[simp] theorem raisePath_inReset (p : Path) (r : Reason) (s : State) : (raisePath p r s).inReset = s.inReset := rfl
@[simp] theorem raisePath_stc (p : Path) (r : Reason) (s : State) : (raisePath p r s).stc = s.stc := rfl
@[simp] theorem raisePath_convs (p : Path) (r : Reason) (s : State) : (raisePath p r s).convs = s.convs := rfl
@[simp] theorem raisePath_rts (p : Path) (r : Reason) (s : State) : (raisePath p r s).rts = s.rts := rfl
@[simp] theorem raisePath_dlq (p : Path) (r : Reason) (s : State) : (raisePath p r s).dlq = s.dlq := rfl
@[simp] theorem raisePath_paths (p : Path) (r : Reason) (s : State) : (raisePath p r s).paths = s.paths := rfl
@[simp] theorem raisePath_prt (p : Path) (r : Reason) (s : State) : (raisePath p r s).prt = s.prt := rfl
@[simp] theorem raisePath_she (p : Path) (r : Reason) (s : State) : (raisePath p r s).she = s.she := rfl
@[simp] theorem raisePath_hlu (p : Path) (r : Reason) (s : State) : (raisePath p r s).hlu = s.hlu := rfl
@[simp] theorem raisePath_ntu (p : Path) (r : Reason) (s : State) :
    (raisePath p r s).ntu = { s.ntu with paths := s.ntu.paths.set p (insertIn Reason.all r (s.ntu.paths.get p)) } := rfl

@[simp] theorem raisePeer_pending (k : Nat) (r : Reason) (s : State) : (raisePeer k r s).pending = s.pending := rfl
@[simp] theorem raisePeer_inReset (k : Nat) (r : Reason) (s : State) : (raisePeer k r s).inReset = s.inReset := rfl
@[simp] theorem raisePeer_stc (k : Nat) (r : Reason) (s : State) : (raisePeer k r s).stc = s.stc := rfl
@[simp] theorem raisePeer_convs (k : Nat) (r : Reason) (s : State) : (raisePeer k r s).convs = s.convs := rfl
@[simp] theorem raisePeer_rts (k : Nat) (r : Reason) (s : State) : (raisePeer k r s).rts = s.rts := rfl
@[simp] theorem raisePeer_dlq (k : Nat) (r : Reason) (s : State) : (raisePeer k r s).dlq = s.dlq := rfl
@[simp] theorem raisePeer_paths (k : Nat) (r : Reason) (s : State) : (raisePeer k r s).paths = s.paths := rfl
@[simp] theorem raisePeer_prt (k : Nat) (r : Reason) (s : State) : (raisePeer k r s).prt = s.prt := rfl
@[simp] theorem raisePeer_she (k : Nat) (r : Reason) (s : State) : (raisePeer k r s).she = s.she := rfl
@[simp] theorem raisePeer_hlu (k : Nat) (r : Reason) (s : State) : (raisePeer k r s).hlu = s.hlu := rfl
@[simp] theorem raisePeer_ntu (k : Nat) (r : Reason) (s : State) :
    (raisePeer k r s).ntu = { s.ntu with peers := KMap.set s.ntu.peers k (insertIn Reason.all r (reasonsAt s.ntu.peers k)) } := rfl

@[simp] theorem clearPeerReasons_pending (k : Nat) (s : State) : (clearPeerReasons k s).pending = s.pending := rfl
@[simp] theorem clearPeerReasons_inReset (k : Nat) (s : State) : (clearPeerReasons k s).inReset = s.inReset := rfl
@[simp] theorem clearPeerReasons_stc (k : Nat) (s : State) : (clearPeerReasons k s).stc = s.stc := rfl
@[simp] theorem clearPeerReasons_convs (k : Nat) (s : State) : (clearPeerReasons k s).convs = s.convs := rfl
@[simp] theorem clearPeerReasons_rts (k : Nat) (s : State) : (clearPeerReasons k s).rts = s.rts := rfl
@[simp] theorem clearPeerReasons_dlq (k : Nat) (s : State) : (clearPeerReasons k s).dlq = s.dlq := rfl
@[simp] theorem clearPeerReasons_paths (k : Nat) (s : State) : (clearPeerReasons k s).paths = s.paths := rfl
@[simp] theorem clearPeerReasons_prt (k : Nat) (s : State) : (clearPeerReasons k s).prt = s.prt := rfl
@[simp] theorem clearPeerReasons_she (k : Nat) (s : State) : (clearPeerReasons k s).she = s.she := rfl
@[simp] theorem clearPeerReasons_hlu (k : Nat) (s : State) : (clearPeerReasons k s).hlu = s.hlu := rfl

@[simp] theorem freezeClosing_pending (h : Nat) (c : Conv) (s : State) :
    (freezeClosing h c s).pending = s.pending := rfl
@[simp] theorem freezeClosing_inReset (h : Nat) (c : Conv) (s : State) :
    (freezeClosing h c s).inReset = s.inReset := rfl
@[simp] theorem freezeClosing_stc (h : Nat) (c : Conv) (s : State) : (freezeClosing h c s).stc = s.stc := rfl
@[simp] theorem freezeClosing_convs (h : Nat) (c : Conv) (s : State) : (freezeClosing h c s).convs = s.convs := rfl
@[simp] theorem freezeClosing_rts (h : Nat) (c : Conv) (s : State) : (freezeClosing h c s).rts = s.rts := rfl
@[simp] theorem freezeClosing_dlq (h : Nat) (c : Conv) (s : State) : (freezeClosing h c s).dlq = s.dlq := rfl
@[simp] theorem freezeClosing_paths (h : Nat) (c : Conv) (s : State) : (freezeClosing h c s).paths = s.paths := rfl
@[simp] theorem freezeClosing_prt (h : Nat) (c : Conv) (s : State) : (freezeClosing h c s).prt = s.prt := rfl
@[simp] theorem freezeClosing_she (h : Nat) (c : Conv) (s : State) : (freezeClosing h c s).she = s.she := rfl
@[simp] theorem freezeClosing_hlu (h : Nat) (c : Conv) (s : State) : (freezeClosing h c s).hlu = s.hlu := rfl

@[simp] theorem advanceTo_pending (t : Nat) (s : State) : (advanceTo t s).pending = s.pending := rfl
@[simp] theorem advanceTo_inReset (t : Nat) (s : State) : (advanceTo t s).inReset = s.inReset := rfl
@[simp] theorem advanceTo_stc (t : Nat) (s : State) :
    (advanceTo t s).stc = { s.stc with time := max s.stc.time t } := rfl
@[simp] theorem advanceTo_convs (t : Nat) (s : State) : (advanceTo t s).convs = s.convs := rfl
@[simp] theorem advanceTo_rts (t : Nat) (s : State) : (advanceTo t s).rts = s.rts := rfl
@[simp] theorem advanceTo_dlq (t : Nat) (s : State) : (advanceTo t s).dlq = s.dlq := rfl
@[simp] theorem advanceTo_paths (t : Nat) (s : State) : (advanceTo t s).paths = s.paths := rfl
@[simp] theorem advanceTo_prt (t : Nat) (s : State) : (advanceTo t s).prt = s.prt := rfl
@[simp] theorem advanceTo_she (t : Nat) (s : State) : (advanceTo t s).she = s.she := rfl
@[simp] theorem advanceTo_hlu (t : Nat) (s : State) : (advanceTo t s).hlu = s.hlu := rfl
@[simp] theorem advanceTo_ntu (t : Nat) (s : State) : (advanceTo t s).ntu = s.ntu := rfl

@[simp] theorem setRound_pending (p : Path) (t : Option Nat) (s : State) : (setRound p t s).pending = s.pending := rfl
@[simp] theorem setRound_inReset (p : Path) (t : Option Nat) (s : State) : (setRound p t s).inReset = s.inReset := rfl
@[simp] theorem setRound_stc (p : Path) (t : Option Nat) (s : State) : (setRound p t s).stc = s.stc := rfl
@[simp] theorem setRound_convs (p : Path) (t : Option Nat) (s : State) : (setRound p t s).convs = s.convs := rfl
@[simp] theorem setRound_rts (p : Path) (t : Option Nat) (s : State) : (setRound p t s).rts = s.rts := rfl
@[simp] theorem setRound_dlq (p : Path) (t : Option Nat) (s : State) : (setRound p t s).dlq = s.dlq := rfl
@[simp] theorem setRound_paths (p : Path) (t : Option Nat) (s : State) : (setRound p t s).paths = s.paths := rfl
@[simp] theorem setRound_prt (p : Path) (t : Option Nat) (s : State) :
    (setRound p t s).prt = { s.prt with rounds := s.prt.rounds.set p t } := rfl
@[simp] theorem setRound_she (p : Path) (t : Option Nat) (s : State) : (setRound p t s).she = s.she := rfl
@[simp] theorem setRound_hlu (p : Path) (t : Option Nat) (s : State) : (setRound p t s).hlu = s.hlu := rfl
@[simp] theorem setRound_ntu (p : Path) (t : Option Nat) (s : State) : (setRound p t s).ntu = s.ntu := rfl

@[simp] theorem setPeer_pending (k : Nat) (e : Peer) (s : State) : (setPeer k e s).pending = s.pending := rfl
@[simp] theorem setPeer_inReset (k : Nat) (e : Peer) (s : State) : (setPeer k e s).inReset = s.inReset := rfl
@[simp] theorem setPeer_stc (k : Nat) (e : Peer) (s : State) : (setPeer k e s).stc = s.stc := rfl
@[simp] theorem setPeer_convs (k : Nat) (e : Peer) (s : State) : (setPeer k e s).convs = s.convs := rfl
@[simp] theorem setPeer_rts (k : Nat) (e : Peer) (s : State) : (setPeer k e s).rts = s.rts := rfl
@[simp] theorem setPeer_dlq (k : Nat) (e : Peer) (s : State) : (setPeer k e s).dlq = s.dlq := rfl
@[simp] theorem setPeer_paths (k : Nat) (e : Peer) (s : State) : (setPeer k e s).paths = s.paths := rfl
@[simp] theorem setPeer_prt (k : Nat) (e : Peer) (s : State) :
    (setPeer k e s).prt = { s.prt with peers := KMap.set s.prt.peers k e } := rfl
@[simp] theorem setPeer_she (k : Nat) (e : Peer) (s : State) : (setPeer k e s).she = s.she := rfl
@[simp] theorem setPeer_hlu (k : Nat) (e : Peer) (s : State) : (setPeer k e s).hlu = s.hlu := rfl
@[simp] theorem setPeer_ntu (k : Nat) (e : Peer) (s : State) : (setPeer k e s).ntu = s.ntu := rfl

@[simp] theorem eraseConv_pending (h : Nat) (s : State) : (eraseConv h s).pending = s.pending := rfl
@[simp] theorem eraseConv_inReset (h : Nat) (s : State) : (eraseConv h s).inReset = s.inReset := rfl
@[simp] theorem eraseConv_stc (h : Nat) (s : State) : (eraseConv h s).stc = s.stc := rfl
@[simp] theorem eraseConv_convs (h : Nat) (s : State) : (eraseConv h s).convs = KMap.erase s.convs h := rfl
@[simp] theorem eraseConv_rts (h : Nat) (s : State) : (eraseConv h s).rts = s.rts := rfl
@[simp] theorem eraseConv_dlq (h : Nat) (s : State) : (eraseConv h s).dlq = s.dlq := rfl
@[simp] theorem eraseConv_paths (h : Nat) (s : State) : (eraseConv h s).paths = s.paths := rfl
@[simp] theorem eraseConv_prt (h : Nat) (s : State) : (eraseConv h s).prt = s.prt := rfl
@[simp] theorem eraseConv_she (h : Nat) (s : State) : (eraseConv h s).she = s.she := rfl
@[simp] theorem eraseConv_hlu (h : Nat) (s : State) : (eraseConv h s).hlu = s.hlu := rfl
@[simp] theorem eraseConv_ntu (h : Nat) (s : State) : (eraseConv h s).ntu = s.ntu := rfl

@[simp] theorem returnCells_pending (l : List Nat) (s : State) : (returnCells l s).pending = s.pending := rfl
@[simp] theorem returnCells_inReset (l : List Nat) (s : State) : (returnCells l s).inReset = s.inReset := rfl
@[simp] theorem returnCells_stc (l : List Nat) (s : State) : (returnCells l s).stc = s.stc := rfl
@[simp] theorem returnCells_convs (l : List Nat) (s : State) : (returnCells l s).convs = s.convs := rfl
@[simp] theorem returnCells_dlq (l : List Nat) (s : State) : (returnCells l s).dlq = s.dlq := rfl
@[simp] theorem returnCells_paths (l : List Nat) (s : State) : (returnCells l s).paths = s.paths := rfl
@[simp] theorem returnCells_prt (l : List Nat) (s : State) : (returnCells l s).prt = s.prt := rfl
@[simp] theorem returnCells_she (l : List Nat) (s : State) : (returnCells l s).she = s.she := rfl
@[simp] theorem returnCells_hlu (l : List Nat) (s : State) : (returnCells l s).hlu = s.hlu := rfl
@[simp] theorem returnCells_ntu (l : List Nat) (s : State) : (returnCells l s).ntu = s.ntu := rfl

@[simp] theorem discardDeliveries_pending (h : Nat) (s : State) : (discardDeliveries h s).pending = s.pending := rfl
@[simp] theorem discardDeliveries_inReset (h : Nat) (s : State) : (discardDeliveries h s).inReset = s.inReset := rfl
@[simp] theorem discardDeliveries_stc (h : Nat) (s : State) : (discardDeliveries h s).stc = s.stc := rfl
@[simp] theorem discardDeliveries_convs (h : Nat) (s : State) : (discardDeliveries h s).convs = s.convs := rfl
@[simp] theorem discardDeliveries_rts (h : Nat) (s : State) : (discardDeliveries h s).rts = s.rts := rfl
@[simp] theorem discardDeliveries_paths (h : Nat) (s : State) : (discardDeliveries h s).paths = s.paths := rfl
@[simp] theorem discardDeliveries_prt (h : Nat) (s : State) : (discardDeliveries h s).prt = s.prt := rfl
@[simp] theorem discardDeliveries_she (h : Nat) (s : State) : (discardDeliveries h s).she = s.she := rfl
@[simp] theorem discardDeliveries_hlu (h : Nat) (s : State) : (discardDeliveries h s).hlu = s.hlu := rfl
@[simp] theorem discardDeliveries_ntu (h : Nat) (s : State) : (discardDeliveries h s).ntu = s.ntu := rfl

@[simp] theorem withdrawConv_pending (h : Nat) (s : State) : (withdrawConv h s).pending = s.pending := rfl
@[simp] theorem withdrawConv_inReset (h : Nat) (s : State) : (withdrawConv h s).inReset = s.inReset := rfl
@[simp] theorem withdrawConv_stc (h : Nat) (s : State) : (withdrawConv h s).stc = s.stc := rfl
@[simp] theorem withdrawConv_convs (h : Nat) (s : State) : (withdrawConv h s).convs = s.convs := rfl
@[simp] theorem withdrawConv_rts (h : Nat) (s : State) : (withdrawConv h s).rts = s.rts := rfl
@[simp] theorem withdrawConv_dlq (h : Nat) (s : State) : (withdrawConv h s).dlq = s.dlq := rfl
@[simp] theorem withdrawConv_prt (h : Nat) (s : State) : (withdrawConv h s).prt = s.prt := rfl
@[simp] theorem withdrawConv_she (h : Nat) (s : State) : (withdrawConv h s).she = s.she := rfl
@[simp] theorem withdrawConv_hlu (h : Nat) (s : State) : (withdrawConv h s).hlu = s.hlu := rfl
@[simp] theorem withdrawConv_ntu (h : Nat) (s : State) : (withdrawConv h s).ntu = s.ntu := rfl

@[simp] theorem withdrawClass2_pending (h : Nat) (p : Path) (s : State) :
    (withdrawClass2 h p s).pending = s.pending := rfl
@[simp] theorem withdrawClass2_inReset (h : Nat) (p : Path) (s : State) :
    (withdrawClass2 h p s).inReset = s.inReset := rfl
@[simp] theorem withdrawClass2_stc (h : Nat) (p : Path) (s : State) : (withdrawClass2 h p s).stc = s.stc := rfl
@[simp] theorem withdrawClass2_convs (h : Nat) (p : Path) (s : State) : (withdrawClass2 h p s).convs = s.convs := rfl
@[simp] theorem withdrawClass2_rts (h : Nat) (p : Path) (s : State) : (withdrawClass2 h p s).rts = s.rts := rfl
@[simp] theorem withdrawClass2_dlq (h : Nat) (p : Path) (s : State) : (withdrawClass2 h p s).dlq = s.dlq := rfl
@[simp] theorem withdrawClass2_prt (h : Nat) (p : Path) (s : State) : (withdrawClass2 h p s).prt = s.prt := rfl
@[simp] theorem withdrawClass2_she (h : Nat) (p : Path) (s : State) : (withdrawClass2 h p s).she = s.she := rfl
@[simp] theorem withdrawClass2_hlu (h : Nat) (p : Path) (s : State) : (withdrawClass2 h p s).hlu = s.hlu := rfl
@[simp] theorem withdrawClass2_ntu (h : Nat) (p : Path) (s : State) : (withdrawClass2 h p s).ntu = s.ntu := rfl

@[simp] theorem rekindAck_pending (h : Nat) (wait : Bool) (d : Nat) (s : State) :
    (rekindAck h wait d s).pending = s.pending := rfl
@[simp] theorem rekindAck_inReset (h : Nat) (wait : Bool) (d : Nat) (s : State) :
    (rekindAck h wait d s).inReset = s.inReset := rfl
@[simp] theorem rekindAck_stc (h : Nat) (wait : Bool) (d : Nat) (s : State) :
    (rekindAck h wait d s).stc = s.stc := rfl
@[simp] theorem rekindAck_convs (h : Nat) (wait : Bool) (d : Nat) (s : State) :
    (rekindAck h wait d s).convs = s.convs := rfl
@[simp] theorem rekindAck_rts (h : Nat) (wait : Bool) (d : Nat) (s : State) :
    (rekindAck h wait d s).rts = s.rts := rfl
@[simp] theorem rekindAck_dlq (h : Nat) (wait : Bool) (d : Nat) (s : State) :
    (rekindAck h wait d s).dlq = s.dlq := rfl
@[simp] theorem rekindAck_prt (h : Nat) (wait : Bool) (d : Nat) (s : State) :
    (rekindAck h wait d s).prt = s.prt := rfl
@[simp] theorem rekindAck_she (h : Nat) (wait : Bool) (d : Nat) (s : State) :
    (rekindAck h wait d s).she = s.she := rfl
@[simp] theorem rekindAck_hlu (h : Nat) (wait : Bool) (d : Nat) (s : State) :
    (rekindAck h wait d s).hlu = s.hlu := rfl
@[simp] theorem rekindAck_ntu (h : Nat) (wait : Bool) (d : Nat) (s : State) :
    (rekindAck h wait d s).ntu = s.ntu := rfl

@[simp] theorem withdrawInquiry_pending (h : Nat) (p : Path) (s : State) :
    (withdrawInquiry h p s).pending = s.pending := rfl
@[simp] theorem withdrawInquiry_inReset (h : Nat) (p : Path) (s : State) :
    (withdrawInquiry h p s).inReset = s.inReset := rfl
@[simp] theorem withdrawInquiry_stc (h : Nat) (p : Path) (s : State) : (withdrawInquiry h p s).stc = s.stc := rfl
@[simp] theorem withdrawInquiry_convs (h : Nat) (p : Path) (s : State) :
    (withdrawInquiry h p s).convs = s.convs := rfl
@[simp] theorem withdrawInquiry_rts (h : Nat) (p : Path) (s : State) : (withdrawInquiry h p s).rts = s.rts := rfl
@[simp] theorem withdrawInquiry_dlq (h : Nat) (p : Path) (s : State) : (withdrawInquiry h p s).dlq = s.dlq := rfl
@[simp] theorem withdrawInquiry_prt (h : Nat) (p : Path) (s : State) : (withdrawInquiry h p s).prt = s.prt := rfl
@[simp] theorem withdrawInquiry_she (h : Nat) (p : Path) (s : State) : (withdrawInquiry h p s).she = s.she := rfl
@[simp] theorem withdrawInquiry_hlu (h : Nat) (p : Path) (s : State) : (withdrawInquiry h p s).hlu = s.hlu := rfl
@[simp] theorem withdrawInquiry_ntu (h : Nat) (p : Path) (s : State) : (withdrawInquiry h p s).ntu = s.ntu := rfl

@[simp] theorem withdrawProbes_pending (n : Nat) (s : State) : (withdrawProbes n s).pending = s.pending := rfl
@[simp] theorem withdrawProbes_inReset (n : Nat) (s : State) : (withdrawProbes n s).inReset = s.inReset := rfl
@[simp] theorem withdrawProbes_stc (n : Nat) (s : State) : (withdrawProbes n s).stc = s.stc := rfl
@[simp] theorem withdrawProbes_convs (n : Nat) (s : State) : (withdrawProbes n s).convs = s.convs := rfl
@[simp] theorem withdrawProbes_rts (n : Nat) (s : State) : (withdrawProbes n s).rts = s.rts := rfl
@[simp] theorem withdrawProbes_dlq (n : Nat) (s : State) : (withdrawProbes n s).dlq = s.dlq := rfl
@[simp] theorem withdrawProbes_prt (n : Nat) (s : State) : (withdrawProbes n s).prt = s.prt := rfl
@[simp] theorem withdrawProbes_she (n : Nat) (s : State) : (withdrawProbes n s).she = s.she := rfl
@[simp] theorem withdrawProbes_hlu (n : Nat) (s : State) : (withdrawProbes n s).hlu = s.hlu := rfl
@[simp] theorem withdrawProbes_ntu (n : Nat) (s : State) : (withdrawProbes n s).ntu = s.ntu := rfl

@[simp] theorem updHlu_pending (f : Hlu → Hlu) (s : State) : (updHlu f s).pending = s.pending := rfl
@[simp] theorem updHlu_inReset (f : Hlu → Hlu) (s : State) : (updHlu f s).inReset = s.inReset := rfl
@[simp] theorem updHlu_stc (f : Hlu → Hlu) (s : State) : (updHlu f s).stc = s.stc := rfl
@[simp] theorem updHlu_convs (f : Hlu → Hlu) (s : State) : (updHlu f s).convs = s.convs := rfl
@[simp] theorem updHlu_rts (f : Hlu → Hlu) (s : State) : (updHlu f s).rts = s.rts := rfl
@[simp] theorem updHlu_dlq (f : Hlu → Hlu) (s : State) : (updHlu f s).dlq = s.dlq := rfl
@[simp] theorem updHlu_paths (f : Hlu → Hlu) (s : State) : (updHlu f s).paths = s.paths := rfl
@[simp] theorem updHlu_prt (f : Hlu → Hlu) (s : State) : (updHlu f s).prt = s.prt := rfl
@[simp] theorem updHlu_she (f : Hlu → Hlu) (s : State) : (updHlu f s).she = s.she := rfl
@[simp] theorem updHlu_hlu (f : Hlu → Hlu) (s : State) : (updHlu f s).hlu = f s.hlu := rfl
@[simp] theorem updHlu_ntu (f : Hlu → Hlu) (s : State) : (updHlu f s).ntu = s.ntu := rfl

@[simp] theorem beginOut_pending (r : OutRecord) (s : State) : (beginOut r s).pending = s.pending := rfl
@[simp] theorem beginOut_inReset (r : OutRecord) (s : State) : (beginOut r s).inReset = s.inReset := rfl
@[simp] theorem beginOut_stc (r : OutRecord) (s : State) : (beginOut r s).stc = s.stc := rfl
@[simp] theorem beginOut_convs (r : OutRecord) (s : State) : (beginOut r s).convs = s.convs := rfl
@[simp] theorem beginOut_rts (r : OutRecord) (s : State) : (beginOut r s).rts = s.rts := rfl
@[simp] theorem beginOut_dlq (r : OutRecord) (s : State) : (beginOut r s).dlq = s.dlq := rfl
@[simp] theorem beginOut_paths (r : OutRecord) (s : State) : (beginOut r s).paths = s.paths := rfl
@[simp] theorem beginOut_prt (r : OutRecord) (s : State) : (beginOut r s).prt = s.prt := rfl
@[simp] theorem beginOut_she (r : OutRecord) (s : State) : (beginOut r s).she = s.she := rfl
@[simp] theorem beginOut_hlu (r : OutRecord) (s : State) : (beginOut r s).hlu = { s.hlu with out := some r } := rfl
@[simp] theorem beginOut_ntu (r : OutRecord) (s : State) : (beginOut r s).ntu = s.ntu := rfl

@[simp] theorem pushReply_pending (r : Reply) (s : State) : (pushReply r s).pending = s.pending := rfl
@[simp] theorem pushReply_inReset (r : Reply) (s : State) : (pushReply r s).inReset = s.inReset := rfl
@[simp] theorem pushReply_stc (r : Reply) (s : State) : (pushReply r s).stc = s.stc := rfl
@[simp] theorem pushReply_convs (r : Reply) (s : State) : (pushReply r s).convs = s.convs := rfl
@[simp] theorem pushReply_rts (r : Reply) (s : State) : (pushReply r s).rts = s.rts := rfl
@[simp] theorem pushReply_dlq (r : Reply) (s : State) : (pushReply r s).dlq = s.dlq := rfl
@[simp] theorem pushReply_paths (r : Reply) (s : State) : (pushReply r s).paths = s.paths := rfl
@[simp] theorem pushReply_prt (r : Reply) (s : State) : (pushReply r s).prt = s.prt := rfl
@[simp] theorem pushReply_she (r : Reply) (s : State) : (pushReply r s).she = s.she := rfl
@[simp] theorem pushReply_hlu (r : Reply) (s : State) :
    (pushReply r s).hlu = { s.hlu with replies := s.hlu.replies ++ [r] } := rfl
@[simp] theorem pushReply_ntu (r : Reply) (s : State) : (pushReply r s).ntu = s.ntu := rfl

end Sys2Proof.Machine
end

