-- ==== Sys2Proof/Laws/Maps.lean ====
section
/-! SUPPORT. Reading after writing for the containers of the state, their canonical form, and reading a record after each
named update. -/

namespace Sys2Proof

@[simp] theorem PerPath.get_set_same {α : Type} (t : PerPath α) (p : Path) (v : α) : (t.set p v).get p = v := by
  cases p <;> rfl

theorem PerPath.get_set_other {α : Type} (t : PerPath α) {p q : Path} (v : α) (h : q ≠ p) :
    (t.set p v).get q = t.get q := by
  cases p <;> cases q <;> first | rfl | exact absurd rfl h

theorem PerPath.get_set {α : Type} (t : PerPath α) (p q : Path) (v : α) :
    (t.set p v).get q = if q = p then v else t.get q := by
  cases p <;> cases q <;> rfl

@[simp] theorem PerPath.get_map {α β : Type} (f : α → β) (t : PerPath α) (p : Path) :
    (t.map f).get p = f (t.get p) := by
  cases p <;> rfl

@[simp] theorem PerPath.get_all {α : Type} (v : α) (p : Path) : (PerPath.all v).get p = v := by
  cases p <;> rfl

namespace Machine

theorem KMap.get?_set {α : Type} (m : KMap α) (k j : Nat) (v : α) :
    KMap.get? (KMap.set m k v) j = if k = j then some v else KMap.get? m j := by
  induction m with
  | nil => simp [KMap.set, KMap.get?]
  | cons e t ih =>
      obtain ⟨i, w⟩ := e
      simp only [KMap.set]
      split
      · simp only [KMap.get?]
      · split
        · subst_vars
          simp only [KMap.get?]
          split <;> rfl
        · simp only [KMap.get?, ih]
          split
          · subst_vars
            rename_i h1
            rw [if_neg h1]
          · rfl

@[simp] theorem KMap.get?_set_same {α : Type} (m : KMap α) (k : Nat) (v : α) :
    KMap.get? (KMap.set m k v) k = some v := by
  rw [KMap.get?_set, if_pos rfl]

theorem KMap.get?_erase {α : Type} (m : KMap α) (k j : Nat) :
    KMap.get? (KMap.erase m k) j = if k = j then none else KMap.get? m j := by
  induction m with
  | nil => simp [KMap.erase, KMap.get?]
  | cons e t ih =>
      obtain ⟨i, w⟩ := e
      simp only [KMap.erase]
      split
      · subst_vars
        rw [ih]
        split
        · rfl
        · simp only [KMap.get?]
          rename_i h
          rw [if_neg h]
      · simp only [KMap.get?, ih]
        split
        · subst_vars
          rename_i h
          rw [if_neg (Ne.symm h)]
        · rfl

theorem KMap.get?_mapVals {α β : Type} (f : α → β) (m : KMap α) (k : Nat) :
    KMap.get? (KMap.mapVals f m) k = (KMap.get? m k).map f := by
  induction m with
  | nil => rfl
  | cons e t ih =>
      simp only [KMap.mapVals, List.map_cons, KMap.get?] at ih ⊢
      split
      · rfl
      · exact ih

/-- The canonical form, as a statement about the keys. -/
def KMap.Rising {α : Type} (m : KMap α) : Prop := m.keys.Pairwise (· < ·)

theorem KMap.wf_iff {α : Type} (m : KMap α) : m.wf = true ↔ KMap.Rising m := by
  simp [KMap.wf, KMap.Rising]

theorem KMap.mem_keys_set {α : Type} (m : KMap α) (k j : Nat) (v : α) :
    j ∈ KMap.keys (KMap.set m k v) ↔ j = k ∨ j ∈ KMap.keys m := by
  induction m with
  | nil => simp [KMap.set, KMap.keys]
  | cons e t ih =>
      obtain ⟨i, w⟩ := e
      simp only [KMap.keys] at ih
      simp only [KMap.set, KMap.keys]
      split
      · simp
      · split
        · subst_vars; simp
        · simp only [List.map_cons, List.mem_cons, ih]
          tauto

theorem KMap.wf_set {α : Type} {m : KMap α} (h : m.wf = true) (k : Nat) (v : α) : (KMap.set m k v).wf = true := by
  rw [KMap.wf_iff] at *
  induction m with
  | nil => simp [KMap.set, KMap.Rising, KMap.keys]
  | cons e t ih =>
      obtain ⟨i, w⟩ := e
      have ht : KMap.Rising t := by
        simp only [KMap.Rising, KMap.keys, List.map_cons, List.pairwise_cons] at h ⊢
        exact h.2
      have hi : ∀ j ∈ KMap.keys t, i < j := by
        simp only [KMap.Rising, KMap.keys, List.map_cons, List.pairwise_cons] at h
        exact h.1
      simp only [KMap.set]
      split
      · rename_i hk
        simp only [KMap.Rising, KMap.keys, List.map_cons, List.pairwise_cons, List.mem_cons]
        refine ⟨?_, hi, ht⟩
        rintro a (rfl | ha)
        · exact hk
        · exact Nat.lt_trans hk (hi a ha)
      · split
        · subst_vars
          simp only [KMap.Rising, KMap.keys, List.map_cons, List.pairwise_cons]
          exact ⟨hi, ht⟩
        · rename_i h1 h2
          have := ih ht
          simp only [KMap.Rising, KMap.keys, List.map_cons, List.pairwise_cons] at this ⊢
          refine ⟨?_, this⟩
          intro a ha
          rcases (KMap.mem_keys_set t k a v).1 ha with rfl | ha
          · omega
          · exact hi a ha

theorem KMap.keys_erase {α : Type} (m : KMap α) (k : Nat) :
    KMap.keys (KMap.erase m k) = (KMap.keys m).filter (fun j => decide (j ≠ k)) := by
  induction m with
  | nil => rfl
  | cons e t ih =>
      obtain ⟨i, w⟩ := e
      simp only [KMap.erase]
      split
      · subst_vars
        rw [ih]
        simp [KMap.keys]
      · rename_i h
        simp only [KMap.keys, List.map_cons] at ih ⊢
        rw [ih, List.filter_cons_of_pos (by simpa using h)]

theorem KMap.wf_erase {α : Type} {m : KMap α} (h : m.wf = true) (k : Nat) : (KMap.erase m k).wf = true := by
  rw [KMap.wf_iff, KMap.Rising] at *
  rw [KMap.keys_erase]
  exact h.filter _

theorem KMap.get?_isSome {α : Type} (m : KMap α) (k : Nat) : (KMap.get? m k).isSome = true ↔ k ∈ KMap.keys m := by
  induction m with
  | nil => simp [KMap.get?, KMap.keys]
  | cons e t ih =>
      obtain ⟨i, w⟩ := e
      simp only [KMap.get?]
      split
      · subst_vars; simp [KMap.keys]
      · rename_i h
        rw [ih]
        simp only [KMap.keys, List.map_cons, List.mem_cons]
        constructor
        · exact Or.inr
        · rintro (rfl | h')
          · exact absurd rfl h
          · exact h'

/-- An operation for each member keeps what each operation keeps. -/
theorem forEach_keeps {α σ : Type} (P : σ → Prop) (f : α → σ → σ) (hf : ∀ a s, P s → P (f a s)) :
    ∀ (l : List α) (s : σ), P s → P (forEach l f s)
  | [], s, h => h
  | a :: l, s, h => forEach_keeps P f hf l (f a s) (hf a s h)

/-! ## Reading a record after an update -/

theorem State.conv_setConv (h j : Nat) (c : Conv) (s : State) :
    (setConv h c s).conv j = if h = j then some c else s.conv j := KMap.get?_set _ _ _ _

@[simp] theorem State.conv_setConv_same (h : Nat) (c : Conv) (s : State) : (setConv h c s).conv h = some c :=
  KMap.get?_set_same _ _ _

theorem State.path_updPath (p q : Path) (f : PathRec → PathRec) (s : State) :
    (updPath p f s).path q = if q = p then f (s.path p) else s.path q := PerPath.get_set _ _ _ _

@[simp] theorem State.path_updPath_same (p : Path) (f : PathRec → PathRec) (s : State) :
    (updPath p f s).path p = f (s.path p) := PerPath.get_set_same _ _ _

/-- Reading a conversation looks at the table alone. -/
theorem State.conv_congr {s t : State} (h : t.convs = s.convs) (j : Nat) : t.conv j = s.conv j := by
  simp [State.conv, h]

/-- Reading a path looks at the paths alone. -/
theorem State.path_congr {s t : State} (h : t.paths = s.paths) (p : Path) : t.path p = s.path p := by
  simp [State.path, h]

/-- The lowest number that has no value, and when there is none below the bound. -/
theorem KMap.lowestFree_spec {α : Type} (m : KMap α) (n : Nat) :
    (KMap.lowestFree m n = none ↔ ∀ h, h < n → KMap.get? m h ≠ none) ∧
    ∀ h, KMap.lowestFree m n = some h ↔ h < n ∧ KMap.get? m h = none ∧ ∀ j, j < h → KMap.get? m j ≠ none := by
  have e : ∀ j, (KMap.get? m j).isSome = true ↔ KMap.get? m j ≠ none := fun j => Option.isSome_iff_ne_none
  unfold KMap.lowestFree
  refine ⟨by rw [List.find?_eq_none]; simp [Option.isNone_iff_eq_none], fun h => ?_⟩
  rw [List.find?_range_eq_some]
  simp only [Option.isNone_iff_eq_none, List.mem_range, Bool.not_eq_true', Option.isNone_eq_false_iff, e]
  exact ⟨fun ⟨a, b, c⟩ => ⟨b, a, c⟩, fun ⟨a, b, c⟩ => ⟨b, a, c⟩⟩

/-- In a map in canonical form, putting the value that stands there changes nothing. -/
theorem KMap.set_self {α : Type} : ∀ (m : KMap α) (k : Nat) (v : α), m.wf = true → KMap.get? m k = some v →
    KMap.set m k v = m
  | [], _, _, _, h => by cases h
  | (j, w) :: t, k, v, hw, h => by
    have hw' : (∀ x ∈ KMap.keys t, j < x) ∧ (KMap.keys t).Pairwise (· < ·) :=
      List.pairwise_cons.1 (of_decide_eq_true hw)
    unfold KMap.get? at h
    unfold KMap.set
    by_cases hj : j = k
    · subst hj
      simp at h
      subst h
      simp
    · rw [if_neg hj] at h
      have hk : k ∈ KMap.keys t := (KMap.get?_isSome t k).1 (by rw [h]; rfl)
      have := hw'.1 k hk
      rw [if_neg (by omega), if_neg (by omega), KMap.set_self t k v (decide_eq_true hw'.2) h]

end Machine

end Sys2Proof
end

