-- ==== Sys2Proof/Laws/Ops.lean ====
section
/-! SUPPORT. What the shared operations of Machine/Ops.lean leave alone.  `outer` is what no internal operation touches:
the model's queue, the reset pin, station control and the host link.  `roads` is the paths without their queues, and the
peer table: what decides which path is usable. -/

namespace Sys2Proof.Machine

/-- What no operation inside the conversation table, the ports, the peer table or the shift engine touches. -/
def State.outer (s : State) : List Instr × Bool × Stc × Hlu := (s.pending, s.inReset, s.stc, s.hlu)

/-- The paths without their transmit queues, and the peer table. -/
def State.roads (s : State) : PerPath PathRec × Prt := (s.paths.map PathRec.emptied, s.prt)

theorem State.outer_pending {s t : State} (h : t.outer = s.outer) : t.pending = s.pending := congrArg (·.1) h
theorem State.outer_inReset {s t : State} (h : t.outer = s.outer) : t.inReset = s.inReset := congrArg (·.2.1) h
theorem State.outer_stc {s t : State} (h : t.outer = s.outer) : t.stc = s.stc := congrArg (·.2.2.1) h
theorem State.outer_hlu {s t : State} (h : t.outer = s.outer) : t.hlu = s.hlu := congrArg (·.2.2.2) h
theorem State.roads_prt {s t : State} (h : t.roads = s.roads) : t.prt = s.prt := congrArg (·.2) h

theorem State.roads_path {s t : State} (h : t.roads = s.roads) (p : Path) :
    (t.path p).emptied = (s.path p).emptied := by
  have := congrArg (fun x => PerPath.get x.1 p) h
  simpa [State.roads, State.path] using this

/-- The state of a path reads the same where the paths differ in their queues alone. -/
theorem State.roads_state {s t : State} (h : t.roads = s.roads) (p : Path) : (t.path p).state = (s.path p).state := by
  have := congrArg PathRec.state (State.roads_path h p)
  exact this

/-- Usability reads the same where the paths differ in their queues alone. -/
theorem State.roads_usable {s t : State} (h : t.roads = s.roads) (k : Nat) (p : Path) :
    t.usable k p = s.usable k p := by
  unfold State.usable State.reachOn State.peer
  rw [State.roads_state h, State.roads_prt h]

@[simp] theorem forEach_outer {α : Type} (l : List α) (f : α → State → State) (s : State)
    (hf : ∀ a t, (f a t).outer = t.outer) : (forEach l f s).outer = s.outer :=
  forEach_keeps (fun t => t.outer = s.outer) f (fun a t h => (hf a t).trans h) l s rfl

@[simp] theorem forEach_roads {α : Type} (l : List α) (f : α → State → State) (s : State)
    (hf : ∀ a t, (f a t).roads = t.roads) : (forEach l f s).roads = s.roads :=
  forEach_keeps (fun t => t.roads = s.roads) f (fun a t h => (hf a t).trans h) l s rfl

@[simp] theorem queueOpt_outer (q : QFrame → State → State) (f : Option QFrame) (s : State)
    (hq : ∀ f t, (q f t).outer = t.outer) : (queueOpt q f s).outer = s.outer := by
  cases f
  · rfl
  · exact hq _ _

@[simp] theorem queueOpt_roads (q : QFrame → State → State) (f : Option QFrame) (s : State)
    (hq : ∀ f t, (q f t).roads = t.roads) : (queueOpt q f s).roads = s.roads := by
  cases f
  · rfl
  · exact hq _ _

/-- An update of a path that keeps all but the queues. -/
theorem updPath_roads (p : Path) (f : PathRec → PathRec) (s : State) (hf : ∀ r, (f r).emptied = r.emptied) :
    (updPath p f s).roads = s.roads := by
  unfold State.roads updPath State.path
  cases p <;> simp [PerPath.map, PerPath.set, PerPath.get, hf]

theorem mapPaths_roads (f : PathRec → PathRec) (s : State) (hf : ∀ r, (f r).emptied = r.emptied) :
    ({ s with paths := s.paths.map f } : State).roads = s.roads := by
  simp [State.roads, PerPath.map, hf]

@[simp] theorem setConv_outer (h : Nat) (c : Conv) (s : State) : (setConv h c s).outer = s.outer := rfl
@[simp] theorem setSlot_outer (k : Nat) (v : Slot) (s : State) : (setSlot k v s).outer = s.outer := rfl
@[simp] theorem freeSlot_outer (k : Nat) (s : State) : (freeSlot k s).outer = s.outer := rfl
@[simp] theorem leaveShift_outer (h : Nat) (s : State) : (leaveShift h s).outer = s.outer := rfl
@[simp] theorem raiseConv_outer (h : Nat) (r : Reason) (s : State) : (raiseConv h r s).outer = s.outer := rfl
@[simp] theorem raisePath_outer (p : Path) (r : Reason) (s : State) : (raisePath p r s).outer = s.outer := rfl
@[simp] theorem raisePeer_outer (k : Nat) (r : Reason) (s : State) : (raisePeer k r s).outer = s.outer := rfl
@[simp] theorem clearPeerReasons_outer (k : Nat) (s : State) : (clearPeerReasons k s).outer = s.outer := rfl
@[simp] theorem freezeClosing_outer (h : Nat) (c : Conv) (s : State) : (freezeClosing h c s).outer = s.outer := rfl
@[simp] theorem eraseConv_outer (h : Nat) (s : State) : (eraseConv h s).outer = s.outer := rfl
@[simp] theorem returnCells_outer (l : List Nat) (s : State) : (returnCells l s).outer = s.outer := rfl
@[simp] theorem discardDeliveries_outer (h : Nat) (s : State) : (discardDeliveries h s).outer = s.outer := rfl
@[simp] theorem withdrawConv_outer (h : Nat) (s : State) : (withdrawConv h s).outer = s.outer := rfl
@[simp] theorem withdrawClass2_outer (h : Nat) (p : Path) (s : State) : (withdrawClass2 h p s).outer = s.outer := rfl
@[simp] theorem rekindAck_outer (h : Nat) (wait : Bool) (d : Nat) (s : State) : (rekindAck h wait d s).outer = s.outer := rfl
@[simp] theorem withdrawInquiry_outer (h : Nat) (p : Path) (s : State) : (withdrawInquiry h p s).outer = s.outer := rfl
@[simp] theorem withdrawProbes_outer (n : Nat) (s : State) : (withdrawProbes n s).outer = s.outer := rfl
@[simp] theorem updPath_outer (p : Path) (f : PathRec → PathRec) (s : State) : (updPath p f s).outer = s.outer := rfl
@[simp] theorem setRound_outer (p : Path) (t : Option Nat) (s : State) : (setRound p t s).outer = s.outer := rfl
@[simp] theorem setPeer_outer (k : Nat) (e : Peer) (s : State) : (setPeer k e s).outer = s.outer := rfl

@[simp] theorem setConv_roads (h : Nat) (c : Conv) (s : State) : (setConv h c s).roads = s.roads := rfl
@[simp] theorem setSlot_roads (k : Nat) (v : Slot) (s : State) : (setSlot k v s).roads = s.roads := rfl
@[simp] theorem freeSlot_roads (k : Nat) (s : State) : (freeSlot k s).roads = s.roads := rfl
@[simp] theorem leaveShift_roads (h : Nat) (s : State) : (leaveShift h s).roads = s.roads := rfl
@[simp] theorem raiseConv_roads (h : Nat) (r : Reason) (s : State) : (raiseConv h r s).roads = s.roads := rfl
@[simp] theorem raisePath_roads (p : Path) (r : Reason) (s : State) : (raisePath p r s).roads = s.roads := rfl
@[simp] theorem raisePeer_roads (k : Nat) (r : Reason) (s : State) : (raisePeer k r s).roads = s.roads := rfl
@[simp] theorem clearPeerReasons_roads (k : Nat) (s : State) : (clearPeerReasons k s).roads = s.roads := rfl
@[simp] theorem freezeClosing_roads (h : Nat) (c : Conv) (s : State) : (freezeClosing h c s).roads = s.roads := rfl
@[simp] theorem eraseConv_roads (h : Nat) (s : State) : (eraseConv h s).roads = s.roads := rfl
@[simp] theorem returnCells_roads (l : List Nat) (s : State) : (returnCells l s).roads = s.roads := rfl
@[simp] theorem discardDeliveries_roads (h : Nat) (s : State) : (discardDeliveries h s).roads = s.roads := rfl
@[simp] theorem withdrawConv_roads (h : Nat) (s : State) : (withdrawConv h s).roads = s.roads :=
  mapPaths_roads _ s fun _ => rfl
@[simp] theorem withdrawClass2_roads (h : Nat) (p : Path) (s : State) : (withdrawClass2 h p s).roads = s.roads :=
  updPath_roads _ _ s fun _ => rfl
@[simp] theorem rekindAck_roads (h : Nat) (w : Bool) (d : Nat) (s : State) :
    (rekindAck h w d s).roads = s.roads := mapPaths_roads _ s fun _ => rfl
@[simp] theorem withdrawInquiry_roads (h : Nat) (p : Path) (s : State) : (withdrawInquiry h p s).roads = s.roads :=
  updPath_roads _ _ s fun _ => rfl

@[simp] theorem updConv_outer (h : Nat) (f : Conv → Conv) (s : State) : (updConv h f s).outer = s.outer := by
  unfold updConv; split <;> rfl

@[simp] theorem updConv_roads (h : Nat) (f : Conv → Conv) (s : State) : (updConv h f s).roads = s.roads := by
  unfold updConv; split <;> rfl

@[simp] theorem queue1_outer (p : Path) (f : QFrame) (s : State) : (queue1 p f s).outer = s.outer :=
  updPath_outer _ _ s

@[simp] theorem queue1_roads (p : Path) (f : QFrame) (s : State) : (queue1 p f s).roads = s.roads :=
  updPath_roads _ _ s fun _ => by first | rfl | (split <;> rfl) | (split; rfl; split <;> rfl)

@[simp] theorem queue2_outer (p : Path) (f : QFrame) (s : State) : (queue2 p f s).outer = s.outer :=
  updPath_outer _ _ s

@[simp] theorem queue2_roads (p : Path) (f : QFrame) (s : State) : (queue2 p f s).roads = s.roads :=
  updPath_roads _ _ s fun _ => by first | rfl | (split <;> rfl) | (split; rfl; split <;> rfl)

@[simp] theorem queue3_outer (p : Path) (f : QFrame) (s : State) : (queue3 p f s).outer = s.outer :=
  updPath_outer _ _ s

@[simp] theorem queue3_roads (p : Path) (f : QFrame) (s : State) : (queue3 p f s).roads = s.roads :=
  updPath_roads _ _ s fun _ => by first | rfl | (split <;> rfl) | (split; rfl; split <;> rfl)

@[simp] theorem queue4_outer (p : Path) (f : QFrame) (s : State) : (queue4 p f s).outer = s.outer :=
  updPath_outer _ _ s

@[simp] theorem queue4_roads (p : Path) (f : QFrame) (s : State) : (queue4 p f s).roads = s.roads :=
  updPath_roads _ _ s fun _ => by first | rfl | (split <;> rfl) | (split; rfl; split <;> rfl)

@[simp] theorem joinQueue_outer (h : Nat) (s : State) : (joinQueue h s).outer = s.outer := by
  unfold joinQueue; split <;> rfl

@[simp] theorem joinQueue_roads (h : Nat) (s : State) : (joinQueue h s).roads = s.roads := by
  unfold joinQueue; split <;> rfl

@[simp] theorem queueSlotInquiry_outer (sl : Slot) (c : Conv) (p : Path) (s : State) :
    (queueSlotInquiry sl c p s).outer = s.outer := by
  unfold queueSlotInquiry
  (repeat' split) <;> simp

@[simp] theorem queueSlotInquiry_roads (sl : Slot) (c : Conv) (p : Path) (s : State) :
    (queueSlotInquiry sl c p s).roads = s.roads := by
  unfold queueSlotInquiry
  (repeat' split) <;> simp

@[simp] theorem park_outer (h : Nat) (s : State) : (park h s).outer = s.outer := by
  unfold park
  (repeat' split) <;> simp

@[simp] theorem park_roads (h : Nat) (s : State) : (park h s).roads = s.roads := by
  unfold park
  (repeat' split) <;> simp

@[simp] theorem chooseCore_outer (k : Nat) (s : State) : (chooseCore k s).outer = s.outer := by
  unfold chooseCore
  (repeat' split) <;> simp

@[simp] theorem chooseCore_roads (k : Nat) (s : State) : (chooseCore k s).roads = s.roads := by
  unfold chooseCore
  (repeat' split) <;> simp

@[simp] theorem lapseCore_outer (h : Nat) (why : LapseReason) (s : State) : (lapseCore h why s).outer = s.outer := by
  unfold lapseCore
  (repeat' split) <;> simp

@[simp] theorem lapseCore_roads (h : Nat) (why : LapseReason) (s : State) : (lapseCore h why s).roads = s.roads := by
  unfold lapseCore
  (repeat' split) <;> simp

@[simp] theorem applyStaged_outer (h : Nat) (c : Conv) (s : State) : (applyStaged h c s).outer = s.outer := by
  unfold applyStaged
  (repeat' split) <;> simp

@[simp] theorem applyStaged_roads (h : Nat) (c : Conv) (s : State) : (applyStaged h c s).roads = s.roads := by
  unfold applyStaged
  (repeat' split) <;> simp

@[simp] theorem grant_outer (k h : Nat) (s : State) : (grant k h s).outer = s.outer := by
  unfold grant
  (repeat' split) <;> simp

@[simp] theorem grant_roads (k h : Nat) (s : State) : (grant k h s).roads = s.roads := by
  unfold grant
  (repeat' split) <;> simp

@[simp] theorem grants_outer (n : Nat) (s : State) : (grants n s).outer = s.outer := by
  induction n generalizing s with
  | zero => rfl
  | succ n ih =>
      unfold grants
      split
      · rw [ih]; simp; rfl
      · rfl

@[simp] theorem grants_roads (n : Nat) (s : State) : (grants n s).roads = s.roads := by
  induction n generalizing s with
  | zero => rfl
  | succ n ih =>
      unfold grants
      split
      · rw [ih]; simp; rfl
      · rfl

@[simp] theorem grantAll_outer  (s : State) : (grantAll s).outer = s.outer := by
  unfold grantAll
  (repeat' split) <;> simp

@[simp] theorem grantAll_roads  (s : State) : (grantAll s).roads = s.roads := by
  unfold grantAll
  (repeat' split) <;> simp

@[simp] theorem enterQueue_outer (h : Nat) (s : State) : (enterQueue h s).outer = s.outer := by
  unfold enterQueue
  (repeat' split) <;> simp

@[simp] theorem enterQueue_roads (h : Nat) (s : State) : (enterQueue h s).roads = s.roads := by
  unfold enterQueue
  (repeat' split) <;> simp

@[simp] theorem choose_outer (k : Nat) (s : State) : (choose k s).outer = s.outer := by
  unfold choose
  (repeat' split) <;> simp

@[simp] theorem choose_roads (k : Nat) (s : State) : (choose k s).roads = s.roads := by
  unfold choose
  (repeat' split) <;> simp

@[simp] theorem lapse_outer (h : Nat) (why : LapseReason) (s : State) : (lapse h why s).outer = s.outer := by
  unfold lapse
  (repeat' split) <;> simp

@[simp] theorem lapse_roads (h : Nat) (why : LapseReason) (s : State) : (lapse h why s).roads = s.roads := by
  unfold lapse
  (repeat' split) <;> simp

@[simp] theorem vacate_outer (h : Nat) (s : State) : (vacate h s).outer = s.outer := by
  unfold vacate
  (repeat' split) <;> simp

@[simp] theorem vacate_roads (h : Nat) (s : State) : (vacate h s).roads = s.roads := by
  unfold vacate
  (repeat' split) <;> simp

@[simp] theorem shiftCause_outer (a : Bool) (h : Nat) (s : State) : (shiftCause a h s).outer = s.outer := by
  unfold shiftCause
  (repeat' split) <;> simp

@[simp] theorem shiftCause_roads (a : Bool) (h : Nat) (s : State) : (shiftCause a h s).roads = s.roads := by
  unfold shiftCause
  (repeat' split) <;> simp

@[simp] theorem cue_outer (h : Nat) (s : State) : (cue h s).outer = s.outer := by
  unfold cue
  (repeat' split) <;> simp

@[simp] theorem cue_roads (h : Nat) (s : State) : (cue h s).roads = s.roads := by
  unfold cue
  (repeat' split) <;> simp

@[simp] theorem cueAll_outer (k : Option Nat) (p : Path) (s : State) : (cueAll k p s).outer = s.outer := by
  unfold cueAll
  (repeat' split) <;> simp

@[simp] theorem cueAll_roads (k : Option Nat) (p : Path) (s : State) : (cueAll k p s).roads = s.roads := by
  unfold cueAll
  (repeat' split) <;> simp

@[simp] theorem quietPoint_outer (h : Nat) (s : State) : (quietPoint h s).outer = s.outer := by
  unfold quietPoint
  (repeat' split) <;> simp

@[simp] theorem quietPoint_roads (h : Nat) (s : State) : (quietPoint h s).roads = s.roads := by
  unfold quietPoint
  (repeat' split) <;> simp

@[simp] theorem checkClose_outer (h : Nat) (s : State) : (checkClose h s).outer = s.outer := by
  unfold checkClose
  (repeat' split) <;> simp

@[simp] theorem checkClose_roads (h : Nat) (s : State) : (checkClose h s).roads = s.roads := by
  unfold checkClose
  (repeat' split) <;> simp

@[simp] theorem afterChecks_outer (h : Nat) (s : State) : (afterChecks h s).outer = s.outer := by
  unfold afterChecks
  (repeat' split) <;> simp

@[simp] theorem afterChecks_roads (h : Nat) (s : State) : (afterChecks h s).roads = s.roads := by
  unfold afterChecks
  (repeat' split) <;> simp

@[simp] theorem placeAck_outer (h : Nat) (w : Bool) (own : Option Path) (s : State) :
    (placeAck h w own s).outer = s.outer := by
  unfold placeAck
  (repeat' split) <;> simp

@[simp] theorem placeAck_roads (h : Nat) (w : Bool) (own : Option Path) (s : State) :
    (placeAck h w own s).roads = s.roads := by
  unfold placeAck
  (repeat' split) <;> simp

@[simp] theorem requestAck_outer (h : Nat) (w : Bool) (own : Option Path) (s : State) :
    (requestAck h w own s).outer = s.outer := by
  unfold requestAck
  (repeat' split) <;> simp

@[simp] theorem requestAck_roads (h : Nat) (w : Bool) (own : Option Path) (s : State) :
    (requestAck h w own s).roads = s.roads := by
  unfold requestAck
  (repeat' split) <;> simp

@[simp] theorem replaceAck_outer (f : QFrame) (s : State) : (replaceAck f s).outer = s.outer := by
  unfold replaceAck
  (repeat' split) <;> simp

@[simp] theorem replaceAck_roads (f : QFrame) (s : State) : (replaceAck f s).roads = s.roads := by
  unfold replaceAck
  (repeat' split) <;> simp

end Sys2Proof.Machine
end

