-- ==== Sys2Proof/Laws/Service.lean ====
section
/-! SUPPORT. The shared operations over paths and peers leave the model's queue, the reset pin, station control and the
host link alone. -/

namespace Sys2Proof.Machine

@[simp] theorem updPeer_outer (k : Nat) (f : Peer → Peer) (s : State) : (updPeer k f s).outer = s.outer := by
  unfold updPeer; split <;> rfl

@[simp] theorem updLink_outer (k : Nat) (p : Path) (f : PeerLink → PeerLink) (s : State) :
    (updLink k p f s).outer = s.outer := by
  unfold updLink; simp

@[simp] theorem dropCandidate_outer (k : Nat) (s : State) : (dropCandidate k s).outer = s.outer := by
  unfold dropCandidate
  (repeat' split) <;> simp [apply_ite State.outer]

@[simp] theorem dropCandidates_outer (p : Path) (k : Option Nat) (s : State) :
    (dropCandidates p k s).outer = s.outer := by
  unfold dropCandidates
  apply forEach_outer
  intro a t
  split <;> simp

@[simp] theorem leaveService_outer (p : Path) (l : List QFrame) (s : State) :
    (leaveService p l s).outer = s.outer := by
  unfold leaveService
  (repeat' split) <;> simp [apply_ite State.outer]

@[simp] theorem enterQuench_outer (n : Nat) (p : Path) (why : Cause) (s : State) :
    (enterQuench n p why s).outer = s.outer := by
  induction n generalizing p why s with
  | zero => rfl
  | succ n ih =>
      unfold enterQuench
      rw [forEach_outer]
      · simp [apply_ite State.outer]
      · intro a t
        split
        · exact ih _ _ _
        · rfl

@[simp] theorem quenchPath_outer (p : Path) (why : Cause) (s : State) : (quenchPath p why s).outer = s.outer := by
  unfold quenchPath
  (repeat' split) <;> simp [apply_ite State.outer]

@[simp] theorem handCondition_outer (src : QuenchSource) (why : Cause) (p : Path) (s : State) :
    (handCondition src why p s).outer = s.outer := by
  unfold handCondition
  (repeat' split) <;> simp [apply_ite State.outer]

@[simp] theorem provingCheck_outer (p : Path) (s : State) : (provingCheck p s).outer = s.outer := by
  unfold provingCheck
  (repeat' split) <;> simp [apply_ite State.outer]

@[simp] theorem applyScore_outer (p : Path) (n : Nat) (s : State) : (applyScore p n s).outer = s.outer := by
  unfold applyScore
  (repeat' split) <;> simp [apply_ite State.outer]

@[simp] theorem addScore_outer (p : Path) (n : Nat) (s : State) : (addScore p n s).outer = s.outer := by
  unfold addScore
  (repeat' split) <;> simp [apply_ite State.outer]

@[simp] theorem lowerScore_outer (p : Path) (s : State) : (lowerScore p s).outer = s.outer := by
  unfold lowerScore
  (repeat' split) <;> simp [apply_ite State.outer]

@[simp] theorem queueProbe_outer (p : Path) (k : Nat) (s : State) : (queueProbe p k s).outer = s.outer := by
  unfold queueProbe
  (repeat' split) <;> simp [apply_ite State.outer]

@[simp] theorem beginRound_outer (p : Path) (s : State) : (beginRound p s).outer = s.outer := by
  unfold beginRound
  (repeat' split) <;> simp [apply_ite State.outer]

@[simp] theorem becomeUnknown_outer (p : Path) (k : Nat) (s : State) : (becomeUnknown p k s).outer = s.outer := by
  unfold becomeUnknown
  (repeat' split) <;> simp [apply_ite State.outer]

@[simp] theorem stopRounds_outer (p : Path) (s : State) : (stopRounds p s).outer = s.outer := by
  unfold stopRounds
  (repeat' split) <;> simp [apply_ite State.outer]

@[simp] theorem testPeerAll_outer (p : Path) (s : State) : (testPeerAll p s).outer = s.outer := by
  unfold testPeerAll
  (repeat' split) <;> simp [apply_ite State.outer]

@[simp] theorem becomeUnreachable_outer (k : Nat) (p : Path) (s : State) :
    (becomeUnreachable k p s).outer = s.outer := by
  unfold becomeUnreachable
  (repeat' split) <;> simp [apply_ite State.outer]

@[simp] theorem missRound_outer (p : Path) (k : Nat) (s : State) : (missRound p k s).outer = s.outer := by
  unfold missRound
  simp only
  (repeat' split) <;> simp

@[simp] theorem closeRound_outer (p : Path) (s : State) : (closeRound p s).outer = s.outer := by
  unfold closeRound
  (repeat' split) <;> simp [apply_ite State.outer]

@[simp] theorem markPeer_outer (k : Nat) (p : Path) (s : State) : (markPeer k p s).outer = s.outer := by
  unfold markPeer
  (repeat' split) <;> simp [apply_ite State.outer]

@[simp] theorem revivedPath_outer (p : Path) (s : State) : (revivedPath p s).outer = s.outer := by
  unfold revivedPath
  (repeat' split) <;> simp [apply_ite State.outer]

@[simp] theorem revive_outer (n : Nat) (p : Path) (s : State) : (revive n p s).outer = s.outer := by
  induction n generalizing p s with
  | zero => rfl
  | succ n ih =>
      unfold revive
      simp only
      split
      · rw [forEach_outer]
        · simp [apply_ite State.outer]
        · intro a t
          split
          · exact ih _ _
          · rfl
      · simp [apply_ite State.outer]

@[simp] theorem releaseEvent_outer (p : Path) (s : State) : (releaseEvent p s).outer = s.outer := by
  unfold releaseEvent
  (repeat' split) <;> simp [apply_ite State.outer]

@[simp] theorem leftQuenched_outer (p : Path) (s : State) : (leftQuenched p s).outer = s.outer := by
  unfold leftQuenched
  (repeat' split) <;> simp [apply_ite State.outer]

@[simp] theorem becomeReachable_outer (k : Nat) (p : Path) (s : State) : (becomeReachable k p s).outer = s.outer := by
  unfold becomeReachable
  (repeat' split) <;> simp [apply_ite State.outer]

@[simp] theorem hearPeer_outer (k : Nat) (p : Path) (s : State) : (hearPeer k p s).outer = s.outer := by
  unfold hearPeer
  (repeat' split) <;> simp [apply_ite State.outer]

@[simp] theorem lineUp_outer (p : Path) (s : State) : (lineUp p s).outer = s.outer := by
  unfold lineUp
  (repeat' split) <;> simp [apply_ite State.outer]

@[simp] theorem lineDown_outer (p : Path) (s : State) : (lineDown p s).outer = s.outer := by
  unfold lineDown
  (repeat' split) <;> simp [apply_ite State.outer]

@[simp] theorem drainPath_outer (p : Path) (s : State) : (drainPath p s).outer = s.outer := by
  unfold drainPath
  (repeat' split) <;> simp [apply_ite State.outer]

end Sys2Proof.Machine
end

