-- ==== Sys2Proof/Laws/Inbound.lean ====
section
/-! SUPPORT. Whatever frame arrives, its taking leaves the model's queue, the reset pin, station control and the host link
alone; and what the vocabulary of the statements says of binding, answers and withdrawals. -/

namespace Sys2Proof.Machine

@[simp] theorem openAttempt_outer (h : Nat) (p : Path) (n : Nat) (s : State) :
    (openAttempt h p n s).outer = s.outer := by
  unfold openAttempt
  (repeat' split) <;> simp [apply_ite State.outer]

@[simp] theorem openFrom_outer (h : Nat) (l : List Path) (s : State) : (openFrom h l s).outer = s.outer := by
  unfold openFrom
  (repeat' split) <;> simp [apply_ite State.outer]

@[simp] theorem settleCredit_outer (c : Option Path) (s : State) : (settleCredit c s).outer = s.outer := by
  unfold settleCredit
  (repeat' split) <;> simp [apply_ite State.outer]

@[simp] theorem settleJournal_outer (h d : Nat) (e : Option Nat) (s : State) :
    (settleJournal h d e s).outer = s.outer := by
  unfold settleJournal
  (repeat' split) <;> simp [apply_ite State.outer]

@[simp] theorem settleAdvance_outer (h d : Nat) (c : Option Path) (s : State) :
    (settleAdvance h d c s).outer = s.outer := by
  unfold settleAdvance
  (repeat' split) <;> simp [apply_ite State.outer]

@[simp] theorem settleOn_outer (h d : Nat) (c : Option Path) (s : State) : (settleOn h d c s).outer = s.outer := by
  unfold settleOn
  (repeat' split) <;> simp [apply_ite State.outer]

@[simp] theorem startPause_outer (h : Nat) (s : State) : (startPause h s).outer = s.outer := by
  unfold startPause
  (repeat' split) <;> simp [apply_ite State.outer]

@[simp] theorem takeAck_outer (h d : Nat) (p : Path) (s : State) : (takeAck h d p s).outer = s.outer := by
  unfold takeAck
  (repeat' split) <;> simp [apply_ite State.outer]

@[simp] theorem takeWait_outer (h d : Nat) (p : Path) (s : State) : (takeWait h d p s).outer = s.outer := by
  unfold takeWait
  (repeat' split) <;> simp [apply_ite State.outer]

@[simp] theorem voidRecord_outer (h v : Nat) (s : State) : (voidRecord h v s).outer = s.outer := by
  unfold voidRecord
  (repeat' split) <;> simp [apply_ite State.outer]

@[simp] theorem inquiryVoided_outer (h v d : Nat) (c : Conv) (s : State) :
    (inquiryVoided h v d c s).outer = s.outer := by
  unfold inquiryVoided
  (repeat' split) <;> simp [apply_ite State.outer]

@[simp] theorem inquiryKept_outer (h d : Nat) (c : Conv) (s : State) : (inquiryKept h d c s).outer = s.outer := by
  unfold inquiryKept
  (repeat' split) <;> simp [apply_ite State.outer]

@[simp] theorem applyInquiryAnswer_outer (h : Nat) (c : Conv) (o : AnswerOutcome) (d : Nat) (s : State) :
    (applyInquiryAnswer h c o d s).outer = s.outer := by
  unfold applyInquiryAnswer
  (repeat' split) <;> simp [apply_ite State.outer]

@[simp] theorem shiftSettle_outer (h d : Nat) (e : Option Nat) (s : State) :
    (shiftSettle h d e s).outer = s.outer := by
  unfold shiftSettle
  (repeat' split) <;> simp [apply_ite State.outer]

@[simp] theorem shiftVoid_outer (h : Nat) (v : Option Nat) (o : AnswerOutcome) (s : State) :
    (shiftVoid h v o s).outer = s.outer := by
  unfold shiftVoid
  (repeat' split) <;> simp [apply_ite State.outer]

@[simp] theorem startCarrying_outer (h : Nat) (s : State) : (startCarrying h s).outer = s.outer := by
  unfold startCarrying
  (repeat' split) <;> simp [apply_ite State.outer]

@[simp] theorem applyShiftAnswer_outer (h k : Nat) (sl : Slot) (p : Path) (o : AnswerOutcome) (d : Nat) (s : State) :
    (applyShiftAnswer h k sl p o d s).outer = s.outer := by
  unfold applyShiftAnswer
  (repeat' split) <;> simp [apply_ite State.outer]

@[simp] theorem applyAnswer_outer (h : Nat) (c : Conv) (p : Path) (n : Nat) (o : AnswerOutcome) (v : Option Nat) (d : Nat) (s : State) :
    (applyAnswer h c p n o v d s).outer = s.outer := by
  unfold applyAnswer
  (repeat' split) <;> simp [apply_ite State.outer]

@[simp] theorem takeAnswer_outer (h : Nat) (p : Path) (n : Nat) (o : AnswerOutcome) (v : Option Nat) (d : Nat) (s : State) :
    (takeAnswer h p n o v d s).outer = s.outer := by
  unfold takeAnswer
  (repeat' split) <;> simp [apply_ite State.outer]

@[simp] theorem answerFrame_outer (p : Path) (k : Nat) (src dst : Option Nat) (n : Nat) (b : FrameBody) (o : Option Nat) (s : State) :
    (answerFrame p k src dst n b o s).outer = s.outer := by
  unfold answerFrame
  (repeat' split) <;> simp [apply_ite State.outer]

@[simp] theorem displaceOne_outer (j : Nat) (s : State) : (displaceOne j s).outer = s.outer := by
  unfold displaceOne
  (repeat' split) <;> simp [apply_ite State.outer]

@[simp] theorem displace_outer (k ph h : Nat) (s : State) : (displace k ph h s).outer = s.outer := by
  unfold displace
  (repeat' split) <;> simp [apply_ite State.outer]

@[simp] theorem acceptOpening_outer (h : Nat) (c : Conv) (ph : Nat) (p : Path) (s : State) :
    (acceptOpening h c ph p s).outer = s.outer := by
  unfold acceptOpening
  (repeat' split) <;> simp [apply_ite State.outer]

@[simp] theorem implicitAccept_outer (h : Nat) (c : Conv) (src : Option Nat) (p : Path) (s : State) :
    (implicitAccept h c src p s).outer = s.outer := by
  unfold implicitAccept
  (repeat' split) <;> simp [apply_ite State.outer]

@[simp] theorem takeOpenReply_outer (p : Path) (k : Nat) (f : RxFrame) (a : Bool) (s : State) :
    (takeOpenReply p k f a s).outer = s.outer := by
  unfold takeOpenReply
  (repeat' split) <;> simp [apply_ite State.outer]

@[simp] theorem admitConv_outer (h k : Nat) (e : Peer) (ph : Nat) (p : Path) (s : State) :
    (admitConv h k e ph p s).outer = s.outer := by
  unfold admitConv
  (repeat' split) <;> simp [apply_ite State.outer]

@[simp] theorem takeOpen_outer (p : Path) (k ph : Nat) (s : State) : (takeOpen p k ph s).outer = s.outer := by
  unfold takeOpen
  (repeat' split) <;> simp [apply_ite State.outer]

@[simp] theorem acceptData_outer (h : Nat) (c : Conv) (p : Path) (q : Nat) (kind : RecKind) (pl : List Byte) (s : State) :
    (acceptData h c p q kind pl s).outer = s.outer := by
  rfl

@[simp] theorem takeData_outer (h : Nat) (p : Path) (n q : Nat) (kind : RecKind) (pl : List Byte) (s : State) :
    (takeData h p n q kind pl s).outer = s.outer := by
  unfold takeData
  (repeat' split) <;> simp [apply_ite State.outer]

@[simp] theorem takeInquiry_outer (h : Nat) (p : Path) (n : Nat) (v : Option Nat) (s : State) :
    (takeInquiry h p n v s).outer = s.outer := by
  unfold takeInquiry
  (repeat' split) <;> simp [apply_ite State.outer]

@[simp] theorem closeCompletion_outer (h : Nat) (s : State) : (closeCompletion h s).outer = s.outer := by
  unfold closeCompletion
  (repeat' split) <;> simp [apply_ite State.outer]

@[simp] theorem takeClose_outer (h : Nat) (p : Path) (f : Nat) (s : State) : (takeClose h p f s).outer = s.outer := by
  unfold takeClose
  (repeat' split) <;> simp [apply_ite State.outer]

@[simp] theorem takeCloseReply_outer (h f : Nat) (s : State) : (takeCloseReply h f s).outer = s.outer := by
  unfold takeCloseReply
  (repeat' split) <;> simp [apply_ite State.outer]

@[simp] theorem takeAbandon_outer (h : Nat) (c : Conv) (s : State) : (takeAbandon h c s).outer = s.outer := by
  unfold takeAbandon
  (repeat' split) <;> simp [apply_ite State.outer]

@[simp] theorem takeUnbound_outer (p : Path) (k : Nat) (f : RxFrame) (s : State) :
    (takeUnbound p k f s).outer = s.outer := by
  unfold takeUnbound
  (repeat' split) <;> simp [apply_ite State.outer]

@[simp] theorem takeWaitFrom_outer (was : ConvState) (h d : Nat) (p : Path) (s : State) :
    (takeWaitFrom was h d p s).outer = s.outer := by
  unfold takeWaitFrom
  (repeat' split) <;> simp

@[simp] theorem boundRule_outer (was : ConvState) (h : Nat) (p : Path) (f : RxFrame) (s : State) :
    (boundRule was h p f s).outer = s.outer := by
  unfold boundRule
  (repeat' split) <;> simp [apply_ite State.outer]

@[simp] theorem takeAddressed_outer (p : Path) (k : Nat) (f : RxFrame) (s : State) :
    (takeAddressed p k f s).outer = s.outer := by
  unfold takeAddressed
  (repeat' split) <;> simp [apply_ite State.outer]

@[simp] theorem conversationRule_outer (p : Path) (k : Nat) (f : RxFrame) (s : State) :
    (conversationRule p k f s).outer = s.outer := by
  unfold conversationRule
  (repeat' split) <;> simp [apply_ite State.outer]

@[simp] theorem hear_outer (p : Path) (k : Option Nat) (s : State) : (hear p k s).outer = s.outer := by
  unfold hear
  (repeat' split) <;> simp [apply_ite State.outer]

@[simp] theorem echo_outer (p : Path) (k : Option Nat) (s : State) : (echo p k s).outer = s.outer := by
  unfold echo
  (repeat' split) <;> simp [apply_ite State.outer]

@[simp] theorem frameCue_outer (p : Path) (k : Option Nat) (s : State) : (frameCue p k s).outer = s.outer := by
  unfold frameCue
  (repeat' split) <;> simp [apply_ite State.outer]

@[simp] theorem takeAtTable_outer (p : Path) (k : Option Nat) (f : RxFrame) (s : State) :
    (takeAtTable p k f s).outer = s.outer := by
  unfold takeAtTable
  (repeat' split) <;> simp [apply_ite State.outer]

@[simp] theorem answerCredit_outer (p : Path) (f : RxFrame) (s : State) : (answerCredit p f s).outer = s.outer := by
  unfold answerCredit
  (repeat' split) <;> simp [apply_ite State.outer]

@[simp] theorem takeLive_outer (p : Path) (f : RxFrame) (s : State) : (takeLive p f s).outer = s.outer := by
  unfold takeLive
  simp only
  (repeat' split) <;> simp

@[simp] theorem takeQuenched_outer (p : Path) (f : RxFrame) (s : State) : (takeQuenched p f s).outer = s.outer := by
  unfold takeQuenched
  simp only
  (repeat' split) <;> simp

@[simp] theorem takeFrame_outer (p : Path) (f : RxFrame) (s : State) : (takeFrame p f s).outer = s.outer := by
  unfold takeFrame
  (repeat' split) <;> simp [apply_ite State.outer]

@[simp] theorem checkAndTake_outer (p : Path) (h : RxHead) (b : RxBody) (s : State) :
    (checkAndTake p h b s).outer = s.outer := by
  unfold checkAndTake
  (repeat' split) <;> simp [apply_ite State.outer]

@[simp] theorem receive_outer (p : Path) (h : RxHead) (b : RxBody) (s : State) :
    (receive p h b s).outer = s.outer := by
  unfold receive
  (repeat' split) <;> simp [apply_ite State.outer]

@[simp] theorem receiveOctets_outer (p : Path) (l : List Byte) (s : State) :
    (receiveOctets p l s).outer = s.outer := by
  unfold receiveOctets
  (repeat' split) <;> simp [apply_ite State.outer]

/-! ## Binding, answers and withdrawals -/

theorem bound_of_unbound {u : State} {k : Nat} {hd : RxHead} (h : Unbound u k hd) (n sh : Nat) (b : FrameBody) :
    u.bound k { srcNode := n, srcHandle := some hd.srcHandle, dstHandle := some hd.dstHandle, shift := sh, body := b } =
      none := by
  unfold State.bound
  simp only
  cases hc : u.conv hd.dstHandle with
  | none => rfl
  | some c =>
    rcases h c hc with h | h | ⟨h1, h2⟩
    · simp [h]
    · simp [h]
    · simp [h1, Ne.symm h2]

theorem answerFrame_eq_withAnswer {u : State} {p : Path} {k : Nat} {e : Peer} {a : LinkAddr} (he : u.peer k = some e)
    (ha : (e.links.get p).link = some a) (src dst : Option Nat) (n : Nat) (b : FrameBody) (o : Option Nat) :
    answerFrame p k src dst n b o u = u.withPath p ((u.path p).withAnswer (answerTo e a src dst n b o)) := by
  unfold answerFrame State.frameTo queueOpt queue1 State.withPath updPath PathRec.withAnswer
  simp only [he, ha, Option.map_some, Config.class1Frames]
  by_cases h : (u.path p).class1.length < 32 <;> simp [h, answerTo]

theorem withdrawConv_path (h : Nat) (s : State) (p : Path) : (withdrawConv h s).path p = (s.path p).without h := by
  have e : (fun f : QFrame => !f.ownedBy h) = fun f => decide (f.owner ≠ some h) := by
    funext f
    simp [QFrame.ownedBy]
  show (PerPath.map (PathRec.withdraw h) s.paths).get p = _
  rw [PerPath.get_map]
  unfold PathRec.withdraw PathRec.without
  rw [e]
  rfl

end Sys2Proof.Machine
end

