-- ==== Sys2Proof/Laws/Chains.lean ====
section
/-! SUPPORT. What the shared operations that run in chains can do: grants of shift slots, quenches and revivals that reach
dependents, probe rounds that stop; each chain's bound is shown to be large enough. -/

namespace Sys2Proof.Machine

/-! ## Maps -/

theorem KMap.set_set {α : Type} (m : KMap α) (k : Nat) (v w : α) :
    KMap.set (KMap.set m k v) k w = KMap.set m k w := by
  induction m with
  | nil => simp [KMap.set]
  | cons a t ih =>
      obtain ⟨j, x⟩ := a
      by_cases h : k < j
      · simp [KMap.set, h]
      · by_cases h2 : k = j
        · simp [KMap.set, h, h2]
        · simp [KMap.set, h, h2, ih]

theorem PerPath.set_set {α : Type} (t : PerPath α) (p : Path) (v w : α) : (t.set p v).set p w = t.set p w := by
  cases p <;> rfl

theorem mem_handles (s : State) (h : Nat) : h ∈ s.handles ↔ ∃ c, s.conv h = some c := by
  unfold State.handles State.conv
  rw [← KMap.get?_isSome, Option.isSome_iff_exists]

theorem mem_peerSlots (s : State) (h : Nat) : h ∈ s.peerSlots ↔ ∃ c, s.peer h = some c := by
  unfold State.peerSlots State.peer
  rw [← KMap.get?_isSome, Option.isSome_iff_exists]

/-! ## Pending reasons -/

theorem mem_insertIn_reason (x r : Reason) (l : List Reason) : r ∈ insertIn Reason.all x l ↔ r = x ∨ r ∈ l := by
  unfold insertIn
  have : r ∈ Reason.all := by cases r <;> decide
  simp [this]

theorem mem_reasonsAt_raiseConv (h : Nat) (x : Reason) (s : State) (r : Reason) :
    r ∈ reasonsAt (raiseConv h x s).ntu.convs h ↔ r = x ∨ r ∈ reasonsAt s.ntu.convs h := by
  unfold raiseConv reasonsAt
  simp [mem_insertIn_reason]

/-! ## Grants -/

theorem lapseCore_queue (h : Nat) (w : LapseReason) (s : State) :
    (lapseCore h w s).she.queue = s.she.queue ∨
      (lapseCore h w s).she.queue = s.she.queue.filter fun e => decide (e.handle ≠ h) := by
  unfold lapseCore
  split
  · exact .inl rfl
  · split
    · exact .inl rfl
    · exact .inr rfl

theorem queueSlotInquiry_she (sl : Slot) (c : Conv) (p : Path) (s : State) :
    (queueSlotInquiry sl c p s).she = s.she := by
  unfold queueSlotInquiry queueOpt
  split <;> rfl

theorem park_she (h : Nat) (s : State) : (park h s).she = s.she := by
  unfold park updConv; split <;> rfl

theorem chooseCore_queue (k : Nat) (s : State) : (chooseCore k s).she.queue = s.she.queue := by
  unfold chooseCore
  (repeat' split) <;> simp [queueSlotInquiry_she, park_she]

theorem grant_queue_length (k h : Nat) (s : State) : (grant k h s).she.queue.length ≤ s.she.queue.length := by
  unfold grant
  split
  · exact Nat.le_refl _
  · split
    · rcases lapseCore_queue h .notKnown s with e | e
      · rw [e]
      · rw [e]; exact List.length_filter_le _ _
    · have key : ∀ c : Conv, ∀ t : State, (applyStaged h c t).she = t.she := by
        intro c t; unfold applyStaged; split <;> rfl
      have key2 : ∀ f, ∀ t : State, (updConv h f t).she = t.she := by
        intro f t; unfold updConv; split <;> rfl
      simp only
      split
      · rw [chooseCore_queue]; simp [key, key2]
      · simp [key, key2]

/-- Any two bounds of at least the queue's length give the same grants. -/
theorem grants_congr : ∀ m n (s : State), s.she.queue.length ≤ m → s.she.queue.length ≤ n → grants m s =
    grants n s := by
  intro m
  induction m with
  | zero =>
      intro n s h0 _
      have hq : s.she.queue = [] := by simpa using h0
      cases n with
      | zero => rfl
      | succ n => simp [grants, hq]
  | succ m ih =>
      intro n s h1 h2
      cases n with
      | zero =>
          have hq : s.she.queue = [] := by simpa using h2
          simp [grants, hq]
      | succ n =>
          unfold grants
          split
          · rename_i e rest k hq hk
            have hl := grant_queue_length k e.handle { s with she := { s.she with queue := rest } }
            rw [hq] at h1 h2
            exact ih _ _ (Nat.le_trans hl (Nat.le_of_succ_le_succ h1)) (Nat.le_trans hl (Nat.le_of_succ_le_succ h2))
          · rfl

/-- While a slot is free the head of the queue leaves for the lowest one, and the other grants follow. -/
theorem grantAll_cons {s : State} {e : QueueEntry} {rest : List QueueEntry} {k : Nat}
    (hq : s.she.queue = e :: rest) (hk : s.freeSlotNo = some k) :
    grantAll s = grantAll (grant k e.handle { s with she := { s.she with queue := rest } }) := by
  have hl := grant_queue_length k e.handle { s with she := { s.she with queue := rest } }
  conv => lhs; unfold grantAll; rw [hq]
  simp only [List.length_cons, grants, hq, hk]
  exact grants_congr _ _ _ hl (Nat.le_refl _)

theorem grantAll_none {s : State} (h : s.freeSlotNo = none) : grantAll s = s := by
  unfold grantAll
  cases hq : s.she.queue with
  | nil => rfl
  | cons e r => simp [grants, hq, h]

theorem grantAll_nil {s : State} (h : s.she.queue = []) : grantAll s = s := by
  unfold grantAll; rw [h]; rfl

/-! ## Peers -/

theorem updLink_eq (k : Nat) (p : Path) (f : PeerLink → PeerLink) (s : State) (e : Peer) (he : s.peer k = some e) :
    updLink k p f s =
      { s with prt := { s.prt with
          peers := KMap.set s.prt.peers k { e with links := e.links.set p (f (e.links.get p)) } } } := by
  unfold updLink updPeer; rw [he]

theorem hasLink_eq (s : State) (p : Path) (k : Nat) (e : Peer) (he : s.peer k = some e) :
   s.hasLink p k = (e.links.get p).link.isSome := by
  unfold State.hasLink State.linkOn; rw [he]

theorem reachOn_eq (s : State) (p : Path) (k : Nat) (e : Peer) (he : s.peer k = some e) :
   s.reachOn k p = (e.links.get p).reach := by
  unfold State.reachOn; rw [he]

theorem peerAllOver_iff (s : State) (p : Path) (q : Nat → Bool) :
    s.peerAllOver p (s.peerSlots.filter q) = true ↔ PeerAllOver s p (fun j => q j = true) := by
  unfold State.peerAllOver PeerAllOver
  simp only [Bool.and_eq_true, decide_eq_true_eq, List.all_eq_true, List.mem_filter, ne_eq, List.filter_eq_nil_iff]
  constructor
  · rintro ⟨h1, h2⟩
    refine ⟨?_, ?_⟩
    · simp only [not_forall] at h1
      obtain ⟨j, ⟨hj, hq⟩, hl⟩ := h1
      obtain ⟨e, he⟩ := (mem_peerSlots s j).1 hj
      refine ⟨j, e, hq, he, ?_⟩
      rw [hasLink_eq s p j e he] at hl
      intro hh; rw [hh] at hl; simp at hl
    · intro j e hq he hl
      have here : s.hasLink p j = true := by rw [hasLink_eq s p j e he]; exact Option.isSome_iff_ne_none.2 hl
      have := h2 j ⟨⟨(mem_peerSlots s j).2 ⟨e, he⟩, hq⟩, here⟩
      rwa [reachOn_eq s p j e he] at this
  · rintro ⟨⟨j, e, hq, he, hl⟩, h2⟩
    refine ⟨?_, ?_⟩
    · intro hh
      apply hh j ⟨(mem_peerSlots s j).2 ⟨e, he⟩, hq⟩
      rw [hasLink_eq s p j e he]; exact Option.isSome_iff_ne_none.2 hl
    · rintro j ⟨⟨hj, hq⟩, hl⟩
      obtain ⟨e, he⟩ := (mem_peerSlots s j).1 hj
      rw [reachOn_eq s p j e he]
      rw [hasLink_eq s p j e he] at hl
      exact h2 j e hq he (Option.isSome_iff_ne_none.1 hl)

/-- The PEER-ALL test of the model over some slots is the test that `PeerAllTested` says. -/
theorem peerAllTested_of_test (s : State) (p : Path) (q : Nat → Bool) (among : Nat → Prop)
    (hq : ∀ j, among j ↔ q j = true) :
    PeerAllTested p among s (if s.peerAllOver p (s.peerSlots.filter q) then handCondition .peerAll .peerAll p s else
        s) := by
  have ha : among = fun j => q j = true := funext fun j => propext (hq j)
  subst ha
  unfold PeerAllTested
  rw [← peerAllOver_iff]
  constructor
  · intro h1 h2 h3
    rw [if_pos h1]; unfold handCondition State.fires; simp [h2, h3]
  · rintro (h | h | h)
    · rw [if_neg h]
    · split
      · unfold handCondition State.fires; simp [h]
      · rfl
    · split
      · unfold handCondition State.fires; simp [h]
      · rfl

/-! ## Leaving service -/

@[simp] theorem dropCandidate_roads (k : Nat) (s : State) : (dropCandidate k s).roads = s.roads := by
  unfold dropCandidate
  (repeat' split) <;> simp

@[simp] theorem dropCandidates_roads (p : Path) (k : Option Nat) (s : State) : (dropCandidates p k s).roads =
    s.roads := by
  unfold dropCandidates
  apply forEach_roads
  intro a t; split <;> simp

@[simp] theorem leaveService_roads (p : Path) (l : List QFrame) (s : State) : (leaveService p l s).roads = s.roads :=
    by
  unfold leaveService
  simp

/-! ## The quench chain -/

/-- An entry into QUENCHED without the dependents that follow. -/
def quenchOne (p : Path) (why : Cause) (s : State) : State :=
  raisePath p .state (if (s.path p).state.inService then leaveService p (s.path p).class4 (updPath p
        (fun r => { r with state := .quenched, cause := some why, settleTimer := none, class2 := [], class4 :=
            [] }) s) else updPath p
        (fun r => { r with state := .quenched, cause := some why, settleTimer := none, class2 := [], class4 :=
            [] }) s)

theorem enterQuench_succ (n : Nat) (p : Path) (why : Cause) (s : State) :
   enterQuench (n+1) p why s = forEach ((quenchOne p why s).dependents p) (fun q t => if t.fires .companion q then
       enterQuench n q .companion t else t) (quenchOne p why s) := rfl

theorem emptied_fields {r x : PathRec} (h : r.emptied = x.emptied) : r.state = x.state ∧ r.sources = x.sources ∧
    r.companions = x.companions ∧ r.alarm = x.alarm ∧ r.score = x.score ∧ r.cause = x.cause ∧ r.autoRevive =
    x.autoRevive := by
  have := fun {β : Type} (f : PathRec → β) => congrArg f h
  exact ⟨this (·.state), this (·.sources), this (·.companions), this (·.alarm), this (·.score), this (·.cause),
      this (·.autoRevive)⟩

theorem quenchOne_path (p : Path) (why : Cause) (s : State) (q : Path) :
   (((quenchOne p why s).path q).state = if q = p then .quenched else (s.path q).state) ∧
       ((quenchOne p why s).path q).companions = (s.path q).companions ∧ ((quenchOne p why s).path q).sources =
       (s.path q).sources := by
  have key : ∀ t : State, t.roads = (updPath p
        (fun r => { r with state := .quenched, cause := some why, settleTimer := none, class2 := [], class4 :=
            [] }) s).roads →
      ((t.path q).state = if q = p then .quenched else (s.path q).state) ∧ (t.path q).companions =
          (s.path q).companions ∧ (t.path q).sources = (s.path q).sources := by
    intro t ht
    have := emptied_fields (State.roads_path ht q)
    rw [this.1, this.2.1, this.2.2.1]
    rw [State.path_updPath]
    by_cases h : q = p
    · subst h; simp
    · simp [h, Ne.symm h]
  apply key
  unfold quenchOne
  rw [raisePath_roads]
  split
  · rw [leaveService_roads]
  · rfl

/-- The number of live paths, which each entry into QUENCHED lowers. -/
def livePaths (s : State) : Nat := (Path.all.filter fun q => (s.path q).state.live).length

theorem filter_length_le {α : Type} (l : List α) (f g : α → Bool) (h : ∀ a ∈ l, f a = true → g a = true) :
    (l.filter f).length ≤ (l.filter g).length := by
  induction l with
  | nil => simp
  | cons a t ih =>
    have ih := ih (fun x hx => h x (by simp [hx]))
    have ha := h a (by simp)
    by_cases hf : f a = true
    · simp [List.filter_cons, hf, ha hf]; exact ih
    · by_cases hg : g a = true
      · simp [List.filter_cons, hf, hg]; omega
      · simp [List.filter_cons, hf, hg]; exact ih

theorem filter_length_lt {α : Type} (l : List α) (f g : α → Bool) (h : ∀ a ∈ l, f a = true → g a = true) (x :
    α) (hx : x ∈ l) (h1 : f x = false) (h2 : g x = true) : (l.filter f).length < (l.filter g).length := by
  induction l with
  | nil => simp at hx
  | cons a t ih =>
    have hle := filter_length_le t f g (fun x hx => h x (by simp [hx]))
    rcases List.mem_cons.1 hx with rfl | hx
    · simp [List.filter_cons, h1, h2]; omega
    · have ih := ih (fun x hx => h x (by simp [hx])) hx
      have ha := h a (by simp)
      by_cases hf : f a = true
      · simp [List.filter_cons, hf, ha hf]; exact ih
      · by_cases hg : g a = true
        · simp [List.filter_cons, hf, hg]; omega
        · simp [List.filter_cons, hf, hg]; exact ih

theorem mem_pathAll (p : Path) : p ∈ Path.all := by cases p <;> simp [Path.all]

theorem enterQuench_live (n : Nat) : ∀ (p : Path) (why : Cause) (s : State) (q : Path),
    ((enterQuench n p why s).path q).state.live = true → (s.path q).state.live = true := by
  induction n with
  | zero => intro p why s q h; exact h
  | succ n ih =>
    intro p why s q
    rw [enterQuench_succ]
    have : ∀ (l : List Path) (t : State), ((forEach l (fun q t => if t.fires .companion q then
        enterQuench n q .companion t else t) t).path q).state.live = true → (t.path q).state.live = true := by
      intro l
      induction l with
      | nil => intro t h; exact h
      | cons a l ihl =>
        intro t h
        have := ihl _ h
        simp only at this
        split at this
        · exact ih _ _ _ _ this
        · exact this
    intro h
    have h2 := this _ _ h
    rw [(quenchOne_path p why s q).1] at h2
    split at h2
    · simp [PathState.live] at h2
    · exact h2

/-- Any two bounds of at least the number of live paths give the same quench chain. -/
theorem enterQuench_congr (n : Nat) : ∀ (m : Nat) (p : Path) (why : Cause) (s : State), (s.path p).state.live =
    true → livePaths s ≤ n → livePaths s ≤ m → enterQuench n p why s = enterQuench m p why s := by
  induction n with
  | zero =>
    intro m p why s hl h _
    have : 0 < livePaths s := by
      unfold livePaths
      exact List.length_pos_of_mem (List.mem_filter.2 ⟨mem_pathAll p, hl⟩)
    omega
  | succ n ih =>
    intro m p why s hl h1 h2
    cases m with
    | zero =>
      have : 0 < livePaths s := by
        unfold livePaths
        exact List.length_pos_of_mem (List.mem_filter.2 ⟨mem_pathAll p, hl⟩)
      omega
    | succ m =>
      rw [enterQuench_succ, enterQuench_succ]
      have hlt : livePaths (quenchOne p why s) < livePaths s := by
        unfold livePaths
        apply filter_length_lt _ _ _ _ p (mem_pathAll p)
        · rw [(quenchOne_path p why s p).1]; simp [PathState.live]
        · exact hl
        · intro a _ ha
          rw [(quenchOne_path p why s a).1] at ha
          split at ha
          · simp [PathState.live] at ha
          · exact ha
      have : ∀ (l : List Path) (t : State), livePaths t < livePaths s →
          forEach l (fun q t => if t.fires .companion q then enterQuench n q .companion t else t) t =
          forEach l (fun q t => if t.fires .companion q then enterQuench m q .companion t else t) t := by
        intro l
        induction l with
        | nil => intro t _; rfl
        | cons a l ihl =>
          intro t ht
          unfold forEach at ihl ⊢
          simp only [List.foldl_cons]
          by_cases hf : t.fires .companion a = true
          · simp only [hf, if_true]
            have hla : (t.path a).state.live = true := by
              unfold State.fires at hf; simp at hf; exact hf.2
            rw [ih m a .companion t hla (by omega) (by omega)]
            apply ihl
            have : livePaths (enterQuench m a .companion t) ≤ livePaths t := by
              unfold livePaths
              apply filter_length_le
              intro x _ hx
              exact enterQuench_live _ _ _ _ _ hx
            omega
          · simp only [hf]
            exact ihl _ ht
      exact this _ _ hlt

/-! ## Stopping the probe rounds -/

/-- Making one peer UNKNOWN on a path changes its entry there and its pending reasons alone. -/
theorem becomeUnknown_eq (p : Path) (k : Nat) (s : State) :
   ∃ n t, becomeUnknown p k s = { s with prt := { s.prt with peers := t }, ntu := { s.ntu with peers := n } } ∧
     (∀ j, j ≠ k → KMap.get? t j = s.peer j ∧ reasonsAt n j = reasonsAt s.ntu.peers j) ∧
     (s.peer k = none → KMap.get? t k = none) ∧
     (∀ r, r ∈ reasonsAt s.ntu.peers k → r ∈ reasonsAt n k) ∧
     ∀ e, s.peer k = some e → KMap.get? t k = some { e with
          links := e.links.set p { e.links.get p with reach := .unknown, miss := 0, heard := false } } ∧
        ((e.links.get p).link ≠ none → (e.links.get p).reach ≠ .unknown → .reachability ∈ reasonsAt n k) := by
  unfold becomeUnknown
  cases he : s.peer k with
  | none =>
    have h0 : s.hasLink p k = false := by unfold State.hasLink State.linkOn; rw [he]; rfl
    refine ⟨s.ntu.peers, s.prt.peers, ?_, ?_, ?_, ?_, ?_⟩
    · simp [h0, updLink, updPeer, he]
    · intro j _; exact ⟨rfl, rfl⟩
    · intro _; exact he
    · intro r h; exact h
    · intro e h; cases h
  | some e =>
    rw [hasLink_eq s p k e he, reachOn_eq s p k e he]
    by_cases hc : ((e.links.get p).link.isSome && decide ((e.links.get p).reach ≠ .unknown)) = true
    · simp only [hc, if_true]
      rw [updLink_eq k p _ (raisePeer k .reachability s) e he]
      refine ⟨_, _, rfl, ?_, ?_, ?_, ?_⟩
      · intro j hj
        refine ⟨?_, ?_⟩
        · simp only [raisePeer, KMap.get?_set, hj, Ne.symm hj, if_false]; rfl
        · simp [reasonsAt, raisePeer, KMap.get?_set, hj, Ne.symm hj]
      · intro h; cases h
      · intro r hr
        simp [reasonsAt, raisePeer, mem_insertIn_reason]
        exact .inr hr
      · intro e' h; cases h
        refine ⟨by simp, ?_⟩
        intro _ _
        simp [reasonsAt, raisePeer, mem_insertIn_reason]
    · simp only [hc]
      rw [if_neg (by simp), updLink_eq k p _ s e he]
      refine ⟨_, _, rfl, ?_, ?_, ?_, ?_⟩
      · intro j hj
        exact ⟨by simp only [KMap.get?_set, hj, Ne.symm hj, if_false]; rfl, rfl⟩
      · intro h; cases h
      · intro r hr; exact hr
      · intro e' h; cases h
        refine ⟨by simp, ?_⟩
        intro h1 h2
        exact absurd (by simp [Option.isSome_iff_ne_none, h1, h2]) hc

/-- Making the peers of several slots UNKNOWN on a path. -/
theorem forEach_becomeUnknown (p : Path) : ∀ (l : List Nat) (s : State),
   ∃ n t, forEach l (becomeUnknown p) s = { s with prt := { s.prt with peers := t }, ntu := { s.ntu with peers :=
       n } } ∧
     (∀ j, j ∉ l → KMap.get? t j = s.peer j) ∧
     (∀ k r, r ∈ reasonsAt s.ntu.peers k → r ∈ reasonsAt n k) ∧
     ∀ k, (s.peer k = none → KMap.get? t k = none) ∧ (k ∈ l →
     ∀ e, s.peer k = some e → KMap.get? t k = some { e with
          links := e.links.set p { e.links.get p with reach := .unknown, miss := 0, heard := false } } ∧
        ((e.links.get p).link ≠ none → (e.links.get p).reach ≠ .unknown → .reachability ∈ reasonsAt n k)) := by
  intro l
  induction l with
  | nil => intro s; exact ⟨_, _, rfl, fun _ _ => rfl, fun _ _ h => h, fun k => ⟨fun h => h, by simp⟩⟩
  | cons a l ih =>
    intro s
    obtain ⟨n1, t1, e1, o1, a1, b1, c1⟩ := becomeUnknown_eq p a s
    obtain ⟨n2, t2, e2, o2, a2, b2⟩ := ih (becomeUnknown p a s)
    refine ⟨n2, t2, ?_, ?_, ?_, ?_⟩
    · show forEach l (becomeUnknown p) (becomeUnknown p a s) = _
      rw [e2, e1]
    · intro j hj
      have h1 := o2 j (fun h => hj (by simp [h]))
      rw [h1, e1]
      exact (o1 j (fun h => hj (by simp [h]))).1
    · intro k r hr
      apply a2
      rw [e1]
      by_cases hk : k = a
      · subst hk; exact b1 r hr
      · show r ∈ reasonsAt n1 k
        rw [(o1 k hk).2]; exact hr
    · intro k
      have hpk : (becomeUnknown p a s).peer k = KMap.get? t1 k := by rw [e1]; rfl
      refine ⟨?_, ?_⟩
      · intro hn
        apply (b2 k).1
        rw [hpk]
        by_cases hk : k = a
        · subst hk; exact a1 hn
        · rw [(o1 k hk).1]; exact hn
      · intro hm e he
        by_cases hk : k = a
        · subst hk
          have hc := c1 e he
          by_cases hin : k ∈ l
          · have h2 := (b2 k).2 hin _ (by rw [hpk]; exact hc.1)
            refine ⟨?_, fun x y => ?_⟩
            · rw [h2.1]; simp [PerPath.set_set]
            · apply a2; rw [e1]; exact hc.2 x y
          · refine ⟨?_, fun x y => ?_⟩
            · rw [o2 k hin, hpk]; exact hc.1
            · apply a2; rw [e1]; exact hc.2 x y
        · have hin : k ∈ l := by simpa [hk] using hm
          have h2 := (b2 k).2 hin e (by rw [hpk, (o1 k hk).1]; exact he)
          exact h2

/-- Stopping the probe rounds does what `RoundsStopped` says. -/
theorem stopRounds_spec (p : Path) (s : State) : RoundsStopped p s (stopRounds p s) := by
  unfold stopRounds
  simp only
  obtain ⟨n, t, e1, o1, a1, b1⟩ := forEach_becomeUnknown p (updPath p (fun r => { r with class3 :=
      [] }) (setRound p none s)).peerSlots (updPath p (fun r => { r with class3 := [] }) (setRound p none s))
  rw [e1]
  refine ⟨⟨n, _, rfl⟩, rfl, ?_⟩
  intro k
  refine ⟨(b1 k).1, ?_⟩
  intro e he
  have hm : k ∈ (updPath p (fun r => { r with class3 := [] }) (setRound p none s)).peerSlots := by
    rw [mem_peerSlots]; exact ⟨e, he⟩
  exact (b1 k).2 hm e he

/-! ## The revival chain -/

theorem RoundsStopped.kept {p : Path} {s u : State} (h : RoundsStopped p s u) (q : Path) :
   (u.path q).state = (s.path q).state ∧ (u.path q).sources = (s.path q).sources ∧ (u.path q).companions =
       (s.path q).companions ∧ (u.path q).alarm = (s.path q).alarm ∧ (u.path q).score = (s.path q).score := by
  obtain ⟨⟨n, t, hu⟩, _⟩ := h
  have : u.path q = if p = q then { s.path p with class3 := [] } else s.path q := by
    rw [hu]; simp only [State.path]; rw [PerPath.get_set]
    by_cases h : q = p
    · subst h; simp
    · have h' : ¬ p = q := fun x => h x.symm
      simp [h, h']
  rw [this]; split
  · rename_i h; subst h; simp
  · simp

theorem forEach_path_eq {α : Type} (l : List α) (f : α → State → State) (hf : ∀ a t, (f a t).paths = t.paths) (s :
    State) : (forEach l f s).paths = s.paths :=
  forEach_keeps (fun t => t.paths = s.paths) f (fun a t h => (hf a t).trans h) l s rfl

theorem updLink_paths (k : Nat) (p : Path) (f : PeerLink → PeerLink) (s : State) : (updLink k p f s).paths =
    s.paths := by
  unfold updLink updPeer; split <;> rfl

theorem queueProbe_emptied (p : Path) (k : Nat) (s : State) (q : Path) : ((queueProbe p k s).path q).emptied =
    (s.path q).emptied := by
  unfold queueProbe queueOpt
  split
  · rfl
  · unfold queue3
    rw [State.path_updPath]
    split
    · rename_i h; subst h; split <;> rfl
    · rfl

theorem beginRound_emptied (p : Path) (s : State) (q : Path) : ((beginRound p s).path q).emptied =
    (s.path q).emptied := by
  unfold beginRound
  simp only
  have h1 : ∀ (l : List Nat) (t : State), ((forEach l (queueProbe p) t).path q).emptied = (t.path q).emptied := by
    intro l
    induction l with
    | nil => intro t; rfl
    | cons a l ih => intro t; exact (ih _).trans (queueProbe_emptied p a t q)
  show ((forEach _ (queueProbe p) _).path q).emptied = _
  rw [h1]
  have := forEach_path_eq s.peerSlots (fun k t => updLink k p (fun l => { l with heard :=
      false }) t) (fun a t => updLink_paths _ _ _ _) s
  rw [State.path_congr this]

/-- A revival without the check at entry into PROVING and the release events that follow. -/
def reviveOne (p : Path) (s : State) : State := raisePath p .state (revivedPath p s)

theorem reviveOne_path (p : Path) (s : State) (q : Path) :
   (((reviveOne p s).path q).state = if q = p then (if (s.path p).lineUp then .proving else .down) else
       (s.path q).state) ∧
   ((reviveOne p s).path q).companions = (s.path q).companions ∧ ((reviveOne p s).path q).sources =
       (s.path q).sources ∧ ((reviveOne p s).path q).alarm = (s.path q).alarm := by
  unfold reviveOne
  rw [show ∀ (r : Reason) (t : State), (raisePath p r t).path q = t.path q from fun _ _ => rfl]
  unfold revivedPath
  simp only
  have key : ∀ (r : PathRec) (t : State), r.companions = (s.path p).companions → r.sources = (s.path p).sources →
      r.alarm = (s.path p).alarm →
     (∀ q, ((t.path q).state = ((s.withPath p r).path q).state ∧ (t.path q).companions =
         ((s.withPath p r).path q).companions ∧ (t.path q).sources = ((s.withPath p r).path q).sources ∧
         (t.path q).alarm = ((s.withPath p r).path q).alarm)) →
     ((t.path q).state = if q = p then r.state else (s.path q).state) ∧ (t.path q).companions =
         (s.path q).companions ∧ (t.path q).sources = (s.path q).sources ∧ (t.path q).alarm = (s.path q).alarm := by
    intro r t h1 h2 h3 h
    obtain ⟨a, b, c, d⟩ := h q
    rw [a, b, c, d]
    unfold State.withPath
    rw [State.path_updPath]
    by_cases hq : q = p
    · subst hq; simp [h1, h2, h3]
    · simp [hq, Ne.symm hq]
  split
  · have h := key
      { s.path p with
        cause := none, score := 0, state := .proving, settleTimer := some (s.after (s.path p).settleTime) }
    split
    · exact h _ rfl rfl rfl (fun q => by
        have e := emptied_fields (beginRound_emptied p
          (updPath p
            (fun r =>
              { r with cause := none, score := 0, state := .proving, settleTimer := some (s.after r.settleTime) })
            s) q)
        exact ⟨e.1, e.2.2.1, e.2.1, e.2.2.2.1⟩)
    · exact h _ rfl rfl rfl (fun q => ⟨rfl, rfl, rfl, rfl⟩)
  · have h := key { (s.path p).emptied with cause := none, score := 0, state := .down, settleTimer := none }
    split
    · refine h _ rfl rfl rfl (fun q => ?_)
      have e := (stopRounds_spec p
        (updPath p (fun r => { r.emptied with cause := none, score := 0, state := .down, settleTimer := none }) s)).kept q
      exact ⟨e.1, e.2.2.1, e.2.1, e.2.2.2.1⟩
    · exact h _ rfl rfl rfl (fun q => ⟨rfl, rfl, rfl, rfl⟩)

theorem provingCheck_passed (p : Path) (s : State) (h : s.testPassed p = true) (hu : (s.path p).lineUp = true) :
    provingCheck p (reviveOne p s) = reviveOne p s := by
  unfold State.testPassed State.companionQuenched at h
  simp only [Bool.and_eq_true, Bool.not_eq_true', Bool.and_eq_false_iff] at h
  obtain ⟨⟨h1, h2⟩, _⟩ := h
  have e := reviveOne_path p s p
  unfold provingCheck State.companionQuenched
  simp only [e.2.2.1, e.2.2.2, e.2.1]
  rw [if_neg, if_neg]
  · simp only [Bool.and_eq_true, not_and, Bool.not_eq_true]
    intro ha
    rcases h2 with h2 | h2
    · rw [ha] at h2; cases h2
    · rw [List.any_eq_false] at h2 ⊢
      intro x hx
      have := h2 x hx
      rw [(reviveOne_path p s x).1]
      split
      · simp
      · exact this
  · simp only [Bool.and_eq_true, not_and]
    intro ha
    rcases h1 with h1 | h1
    · rw [ha] at h1; cases h1
    · simp [h1]

/-- The number of QUENCHED paths, which each revival from QUENCHED lowers. -/
def quenchedPaths (s : State) : Nat := (Path.all.filter fun q => decide ((s.path q).state = .quenched)).length

theorem revive_succ (n : Nat) (p : Path) (s : State) (h : s.testPassed p = true) :
   revive (n+1) p s = if (s.path p).state = .quenched then forEach ((reviveOne p s).dependents p) (fun q t => if
       t.autoReady q then revive n q t else t) (reviveOne p s) else reviveOne p s := by
  have : (if (s.path p).lineUp = true then provingCheck p (raisePath p .state (revivedPath p s)) else
      raisePath p .state (revivedPath p s)) = reviveOne p s := by
    split
    · rename_i hu; exact provingCheck_passed p s h hu
    · rfl
  have key : ∀ x : State, x = reviveOne p s → (if (s.path p).state = .quenched then
      forEach (x.dependents p) (fun q t => if t.autoReady q then revive n q t else t) x else x) =
      if (s.path p).state = .quenched then forEach ((reviveOne p s).dependents p) (fun q t => if t.autoReady q then
      revive n q t else t) (reviveOne p s) else reviveOne p s := fun x hx => by rw [hx]
  exact key _ this

theorem autoReady_quenched {s : State} {p : Path} (h : s.autoReady p = true) : (s.path p).state = .quenched ∧
    s.testPassed p = true := by
  unfold State.autoReady at h; simp at h; exact ⟨h.1.1.2, h.2⟩

theorem reviveOne_quenched (p : Path) (s : State) (q : Path) (h : ((reviveOne p s).path q).state = .quenched) :
    (s.path q).state = .quenched := by
  rw [(reviveOne_path p s q).1] at h
  split at h
  · split at h <;> simp at h
  · exact h

theorem revive_quenched (n : Nat) : ∀ (p : Path) (s : State) (q : Path), s.testPassed p = true →
    ((revive n p s).path q).state = .quenched → (s.path q).state = .quenched := by
  induction n with
  | zero => intro p s q _ h; exact h
  | succ n ih =>
    intro p s q ht
    rw [revive_succ n p s ht]
    have : ∀ (l : List Path) (t : State), ((forEach l (fun q t => if t.autoReady q then revive n q t else
        t) t).path q).state = .quenched → (t.path q).state = .quenched := by
      intro l
      induction l with
      | nil => intro t h; exact h
      | cons a l ihl =>
        intro t h
        have := ihl _ h
        simp only at this
        split at this
        · rename_i ha; exact ih _ _ _ (autoReady_quenched ha).2 this
        · exact this
    split
    · intro h; exact reviveOne_quenched p s q (this _ _ h)
    · intro h; exact reviveOne_quenched p s q h

theorem reviveOne_lt (p : Path) (s : State) (h : (s.path p).state = .quenched) :
    quenchedPaths (reviveOne p s) < quenchedPaths s := by
  unfold quenchedPaths
  apply filter_length_lt _ _ _ _ p (mem_pathAll p)
  · rw [(reviveOne_path p s p).1]; simp; split <;> simp
  · simp [h]
  · intro a _ ha
    simp at ha ⊢
    exact reviveOne_quenched p s a ha

/-- Any two bounds of at least the number of QUENCHED paths give the same revival chain. -/
theorem revive_congr (n : Nat) : ∀ (m : Nat) (p : Path) (s : State), (s.path p).state = .quenched → s.testPassed p =
    true → quenchedPaths s ≤ n → quenchedPaths s ≤ m → revive n p s = revive m p s := by
  induction n with
  | zero =>
    intro m p s hq _ h _
    have : 0 < quenchedPaths s := by
      unfold quenchedPaths
      exact List.length_pos_of_mem (List.mem_filter.2 ⟨mem_pathAll p, by simp [hq]⟩)
    omega
  | succ n ih =>
    intro m p s hq ht h1 h2
    cases m with
    | zero =>
      have : 0 < quenchedPaths s := by
        unfold quenchedPaths
        exact List.length_pos_of_mem (List.mem_filter.2 ⟨mem_pathAll p, by simp [hq]⟩)
      omega
    | succ m =>
      rw [revive_succ n p s ht, revive_succ m p s ht, if_pos hq, if_pos hq]
      have hlt := reviveOne_lt p s hq
      have : ∀ (l : List Path) (t : State), quenchedPaths t < quenchedPaths s →
          forEach l (fun q t => if t.autoReady q then revive n q t else t) t =
          forEach l (fun q t => if t.autoReady q then revive m q t else t) t := by
        intro l
        induction l with
        | nil => intro t _; rfl
        | cons a l ihl =>
          intro t hlt'
          unfold forEach at ihl ⊢
          simp only [List.foldl_cons]
          by_cases hf : t.autoReady a = true
          · have ha := autoReady_quenched hf
            simp only [hf, if_true]
            rw [ih m a t ha.1 ha.2 (by omega) (by omega)]
            apply ihl
            have : quenchedPaths (revive m a t) ≤ quenchedPaths t := by
              unfold quenchedPaths
              apply filter_length_le
              intro x _ hx
              simp at hx ⊢
              exact revive_quenched _ _ _ _ ha.2 hx
            omega
          · simp only [hf]
            exact ihl _ hlt'
      exact this _ _ hlt

/-- What hearing a frame of a peer on a path leaves (R116, R118). -/
theorem hearPeer_cases {s u : State} {p : Path} {k : Nat} {e : Peer} {a : LinkAddr} (he : s.peer k = some e)
    (ha : (e.links.get p).link = some a)
    (hu : u = { s with prt := { s.prt with
      peers := KMap.set s.prt.peers k
        { e with
          links := e.links.set p
            { link := some a, reach := .reachable, miss := 0, heard := true, lastHeard := some s.stc.time } } } }) :
    ((e.links.get p).reach = .reachable → hearPeer k p s = u) ∧
    ((e.links.get p).reach ≠ .reachable → (s.path p).state ≠ .quenched →
      hearPeer k p s = raisePeer k .reachability u) ∧
    ((e.links.get p).reach ≠ .reachable → (s.path p).state = .quenched →
      hearPeer k p s = raisePeer k .reachability (releaseEvent p u)) := by
  obtain ⟨v, hv⟩ : ∃ v, v = updLink k p (fun l => { l with heard := true, miss := 0, lastHeard := some s.now }) s :=
    ⟨_, rfl⟩
  have h1 := hv.trans (updLink_eq k p _ s e he)
  have h2 : updLink k p (fun l => { l with reach := .reachable }) v = u := by
    have hk : v.peer k = some { e with
        links := e.links.set p { e.links.get p with heard := true, miss := 0, lastHeard := some s.now } } := by
      rw [h1]
      show KMap.get? (KMap.set _ _ _) _ = _
      rw [KMap.get?_set, if_pos rfl]
    rw [updLink_eq _ _ _ _ _ hk, h1, hu]
    simp [KMap.set_set, PerPath.set_set, ha]
    rfl
  have hp : (v.path p).state = (s.path p).state := by rw [h1]; rfl
  unfold hearPeer becomeReachable
  simp only [reachOn_eq s p k e he, ← hv, hp, h2]
  refine ⟨fun hr => ?_, fun hr hq => ?_, fun hr hq => ?_⟩
  · rw [if_pos hr, h1, hu]
    congr 4
    rw [← ha, ← hr]
    rfl
  · rw [if_neg hr, if_neg hq]
  · rw [if_neg hr, if_pos hq]

/-! ## Records and the turn of DATA -/

/-- Whether a SINGLE-SHOT record is SENT. -/
theorem sentSingle_isSome (j : List JRec) :
    (sentSingle j).isSome = true ↔ ∃ x ∈ j, x.status = .sent ∧ x.kind = .singleShot := by
  unfold sentSingle JRec.isSent
  simp [List.find?_isSome]

/-- Whether a record is SENT. -/
theorem hasSent_iff (j : List JRec) : hasSent j = true ↔ ∃ x ∈ j, x.status = .sent := by
  simp [hasSent, JRec.isSent]

/-- The members of a rotation are the members of the list. -/
theorem mem_rotated (n j : Nat) (l : List Nat) : j ∈ rotated n l ↔ j ∈ l := by
  unfold rotated
  simp only [List.mem_append, List.mem_filter, decide_eq_true_eq]
  constructor
  · rintro (h | h) <;> exact h.1
  · intro h
    rcases Nat.lt_or_ge n j with h1 | h1
    · exact .inl ⟨h, h1⟩
    · exact .inr ⟨h, h1⟩

/-- A rotation of a rising list starts after its point and wraps. -/
theorem rotated_pairwise (n : Nat) {l : List Nat} (h : l.Pairwise (· < ·)) :
    (rotated n l).Pairwise fun a b => n < a ∧ b ≤ n ∨ (n < a ↔ n < b) ∧ a < b := by
  unfold rotated
  rw [List.pairwise_append]
  refine ⟨(h.filter _).imp_of_mem fun ha hb hab => ?_, (h.filter _).imp_of_mem fun ha hb hab => ?_,
    fun a ha b hb => ?_⟩
  · simp only [List.mem_filter, decide_eq_true_eq] at ha hb
    exact .inr ⟨by simp [ha.2, hb.2], hab⟩
  · simp only [List.mem_filter, decide_eq_true_eq] at ha hb
    exact .inr ⟨by omega, hab⟩
  · simp only [List.mem_filter, decide_eq_true_eq] at ha hb
    exact .inl ⟨ha.2, hb.2⟩

/-! ## Probe rounds -/

/-- What one miss of a peer at a round close can do (R115, R117). -/
theorem missRound_cases {s : State} {p : Path} {k m : Nat} {e : Peer} (he : s.peer k = some e)
    (hm : m = min 15 ((e.links.get p).miss + 1)) :
    (((e.links.get p).reach = .unreachable ∨ m < (s.path p).missLimit) →
      missRound p k s = { s with prt := { s.prt with
        peers := KMap.set s.prt.peers k { e with links := e.links.set p { e.links.get p with miss := m } } } }) ∧
    ((e.links.get p).reach ≠ .unreachable → (s.path p).missLimit ≤ m →
      ∃ u v, u = { s with prt := { s.prt with
          peers := KMap.set s.prt.peers k
            { e with links := e.links.set p { e.links.get p with miss := m, reach := .unreachable } } } } ∧
        PeerAllTested p (fun _ => True)
          (dropCandidates p (some k)
            ((s.handles.filter fun h =>
                (s.conv h).any fun c => decide (c.active = some p) && decide (c.peer = k)).foldl
              (fun t h => shiftCause true h t) u)) v ∧
        missRound p k s = raisePeer k .reachability v) := by
  obtain ⟨s1, hs1⟩ : ∃ s1, s1 = updLink k p (fun l => { l with miss := min Config.maxMiss (l.miss + 1) }) s :=
    ⟨_, rfl⟩
  have e1 := hs1.trans (updLink_eq k p _ s e he)
  have hk : s1.peer k = some { e with links := e.links.set p { e.links.get p with miss := m } } := by
    rw [e1, hm]
    show KMap.get? (KMap.set _ _ _) _ = _
    rw [KMap.get?_set, if_pos rfl]
    rfl
  have hlim : (s1.path p).missLimit = (s.path p).missLimit := by rw [e1]; rfl
  unfold missRound
  simp only [← hs1, hk, hlim, PerPath.get_set_same]
  refine ⟨fun h => ?_, fun h1 h2 => ?_⟩
  · rw [if_neg]
    · rw [e1, hm]; rfl
    · rcases h with h | h
      · simp [h]
      · simp; intro _; omega
  · rw [if_pos (by simp [h1, h2])]
    refine ⟨_, testPeerAll p (dropCandidates p (some k) ((s.handles.filter fun h =>
                (s.conv h).any fun c => decide (c.active = some p) && decide (c.peer = k)).foldl
              (fun t h => shiftCause true h t) { s with prt := { s.prt with
          peers := KMap.set s.prt.peers k
            { e with links := e.links.set p { e.links.get p with miss := m, reach := .unreachable } } } })),
      rfl, ?_, ?_⟩
    · generalize (dropCandidates p (some k) _) = y
      have := peerAllTested_of_test y p (fun _ => true) (fun _ => True) (fun _ => by simp)
      rw [List.filter_eq_self.2 (fun _ _ => rfl)] at this
      exact this
    · unfold becomeUnreachable
      rw [updLink_eq _ _ _ _ _ hk, e1]
      simp only [KMap.set_set, PerPath.set_set, PerPath.get_set_same]
      have : (fun h => (s.conv h).any fun c => decide (c.active = some p) && decide (c.peer = k)) =
          s.activeFor k p := by
        funext h
        unfold State.activeFor
        cases s.conv h <;> rfl
      rw [this]
      rfl

end Sys2Proof.Machine
end

