-- ==== Sys2Proof/Laws/Codec.lean ====
section
/-! SUPPORT. A request's body decodes to the request (R157, R158): each taker reads back what its encoder wrote, and one
lemma per request puts them together. -/

namespace Sys2Proof.Machine

@[simp] theorem octetsOf_length (n v : Nat) : (octetsOf n v).length = n := by
  induction n with
  | zero => rfl
  | succ n ih => simp [octetsOf, ih]

theorem numberOf_append (l m : List Byte) : numberOf (l ++ m) = numberOf l * 256 ^ m.length + numberOf m := by
  have aux : ∀ (m : List Byte) (a : Nat),
      m.foldl (fun a o => a * 256 + o.toNat) a = a * 256 ^ m.length + m.foldl (fun a o => a * 256 + o.toNat) 0 := by
    intro m
    induction m with
    | nil => intro a; simp
    | cons o m ih =>
        intro a
        simp only [List.foldl_cons, List.length_cons]
        rw [ih, ih (0 * 256 + o.toNat)]
        ring
  simp only [numberOf, List.foldl_append]
  exact aux m _

/-- The octets of a number spell it, modulo the width. -/
theorem numberOf_octetsOf_mod (n v : Nat) : numberOf (octetsOf n v) = v % 256 ^ n := by
  induction n with
  | zero => simp [octetsOf, numberOf, Nat.mod_one]
  | succ n ih =>
      have h : octetsOf (n + 1) v = [BitVec.ofNat 8 (v / 256 ^ n)] ++ octetsOf n v := rfl
      rw [h, numberOf_append, octetsOf_length, ih]
      have e : numberOf [BitVec.ofNat 8 (v / 256 ^ n)] = v / 256 ^ n % 256 := by simp [numberOf]
      rw [e, Nat.pow_succ, Nat.mod_mul]
      ring

/-- The octets of a number that fits spell it. -/
theorem numberOf_octetsOf {n v : Nat} (h : v < 256 ^ n) : numberOf (octetsOf n v) = v := by
  rw [numberOf_octetsOf_mod, Nat.mod_eq_of_lt h]

theorem takeNum_octetsOf {n v : Nat} (h : v < 256 ^ n) (l : List Byte) :
    takeNum n (octetsOf n v ++ l) = some (v, l) := by
  unfold takeNum
  rw [if_neg (by simp)]
  simp [numberOf_octetsOf h]

theorem takeOpt_octets {α : Type} {f : List Byte → Option (α × List Byte)} {g : α → List Byte} {o : Option α}
    {l : List Byte} (h : ∀ v ∈ o, f (g v ++ l) = some (v, l)) :
    takeOpt f (octetsOfOpt g o ++ l) = some (o, l) := by
  cases o with
  | none => simp [octetsOfOpt, takeOpt]
  | some v =>
      have := h v rfl
      simp [octetsOfOpt, takeOpt, this]

theorem flatMap_octets (m : List Nat) : (m.flatMap (octetsOf 1)).length = m.length := by
  induction m with
  | nil => rfl
  | cons a m ih => simp [List.flatMap_cons, ih]; omega

theorem map_flatMap_octets {m : List Nat} (h : ∀ w ∈ m, w < 256) :
    (m.flatMap (octetsOf 1)).map BitVec.toNat = m := by
  induction m with
  | nil => rfl
  | cons a m ih =>
      have ha : a < 256 := h a (by simp)
      rw [List.flatMap_cons, List.map_append, ih fun w hw => h w (by simp [hw])]
      simp [octetsOf, Nat.mod_eq_of_lt ha]

theorem takeList_octets {m : List Nat} (hn : m.length < 256) (h : ∀ w ∈ m, w < 256) (l : List Byte) :
    takeList (octetsOfList m ++ l) = some (m, l) := by
  have e : octetsOfList m ++ l = BitVec.ofNat 8 m.length :: (m.flatMap (octetsOf 1) ++ l) := by
    simp [octetsOfList, octetsOf]
  have hl := flatMap_octets m
  rw [e]
  simp only [takeList, BitVec.toNat_ofNat]
  rw [show m.length % 2 ^ 8 = m.length from Nat.mod_eq_of_lt hn]
  rw [if_neg (by simp [hl])]
  rw [← hl, List.take_left, List.drop_left, map_flatMap_octets h]

theorem takeSet_octets {m : List Nat} (hn : m.length < 256) (h : ∀ w ∈ m, w < 256) (hd : m.Nodup) (l : List Byte) :
    takeSet (octetsOfList m ++ l) = some (m, l) := by
  simp [takeSet, takeList_octets hn h, hd]

theorem takeLink_octets (a : LinkAddr) (l : List Byte) : takeLink (octetsOf 6 a.toNat ++ l) = some (a, l) := by
  have h : a.toNat < 256 ^ 6 := a.isLt
  simp [takeLink, takeNum_octetsOf h]

/-! The well-formedness checks as the takers need them. -/

theorem fits_iff {n w : Nat} : WellFormed.fits n w = true ↔ w < 2 ^ n := by simp [WellFormed.fits]

theorem takeNum1 {w : Nat} (h : WellFormed.fits 8 w = true) (l : List Byte) :
    takeNum 1 (octetsOf 1 w ++ l) = some (w, l) := takeNum_octetsOf (by simpa using fits_iff.1 h) l

theorem takeNum2 {w : Nat} (h : WellFormed.fits 16 w = true) (l : List Byte) :
    takeNum 2 (octetsOf 2 w ++ l) = some (w, l) := takeNum_octetsOf (by simpa using fits_iff.1 h) l

theorem takeNum4 {w : Nat} (h : WellFormed.fits 32 w = true) (l : List Byte) :
    takeNum 4 (octetsOf 4 w ++ l) = some (w, l) := takeNum_octetsOf (by simpa using fits_iff.1 h) l

theorem takeOptNum1 {o : Option Nat} (h : WellFormed.optFits 8 o = true) (l : List Byte) :
    takeOpt (takeNum 1) (octetsOfOptNum 1 o ++ l) = some (o, l) :=
  takeOpt_octets fun v hv => by
    cases hv
    exact takeNum1 h l

theorem takeOptNum2 {o : Option Nat} (h : WellFormed.optFits 16 o = true) (l : List Byte) :
    takeOpt (takeNum 2) (octetsOfOptNum 2 o ++ l) = some (o, l) :=
  takeOpt_octets fun v hv => by
    cases hv
    exact takeNum2 h l

theorem octetList_parts {m : List Nat} (h : WellFormed.octetList m = true) :
    m.length < 256 ∧ ∀ w ∈ m, w < 256 := by
  simpa [WellFormed.octetList, WellFormed.fits] using h

theorem takeListWf {m : List Nat} (h : WellFormed.octetList m = true) (l : List Byte) :
    takeList (octetsOfList m ++ l) = some (m, l) :=
  takeList_octets (octetList_parts h).1 (octetList_parts h).2 l

theorem takeSetWf {m : List Nat} (h : WellFormed.octetSet m = true) (l : List Byte) :
    takeSet (octetsOfList m ++ l) = some (m, l) := by
  have h2 : WellFormed.octetList m = true ∧ m.Nodup := by simpa [WellFormed.octetSet] using h
  exact takeSet_octets (octetList_parts h2.1).1 (octetList_parts h2.1).2 h2.2 l

theorem takeOptList {o : Option (List Nat)} (h : WellFormed.optList o = true) (l : List Byte) :
    takeOpt takeList (octetsOfOpt octetsOfList o ++ l) = some (o, l) :=
  takeOpt_octets fun v hv => by
    cases hv
    exact takeListWf h l

theorem takeOptSet {o : Option (List Nat)} (h : WellFormed.optSet o = true) (l : List Byte) :
    takeOpt takeSet (octetsOfOpt octetsOfList o ++ l) = some (o, l) :=
  takeOpt_octets fun v hv => by
    cases hv
    exact takeSetWf h l

theorem takeOptLink (o : Option LinkAddr) (l : List Byte) :
    takeOpt takeLink (octetsOfOpt (fun x => octetsOf 6 x.toNat) o ++ l) = some (o, l) :=
  takeOpt_octets fun v _ => takeLink_octets v l

/-! ## One lemma per form of request -/

theorem decodeOne1 {w : Nat} (h : WellFormed.fits 8 w = true) (f : Nat → Request) :
    decodeOne 1 f (octetsOf 1 w) = some (f w) := by
  have := takeNum1 h []
  rw [List.append_nil] at this
  simp [decodeOne, this, noneLeft]

theorem decodeOne2 {w : Nat} (h : WellFormed.fits 16 w = true) (f : Nat → Request) :
    decodeOne 2 f (octetsOf 2 w) = some (f w) := by
  have := takeNum2 h []
  rw [List.append_nil] at this
  simp [decodeOne, this, noneLeft]

/-- The octets end where a taker's value does. -/
theorem ends {α : Type} {f : List Byte → Option (α × List Byte)} {x : List Byte} {v : α}
    (h : ∀ l, f (x ++ l) = some (v, l)) : f x = some (v, []) := by
  have := h []
  rwa [List.append_nil] at this

/-- One taker of a chain answers, and the rest goes on with its value. -/
theorem takeStep {α β : Type} {x : Option α} {v : α} {f : α → Option β} {r : Option β} (h : x = some v)
    (h' : f v = r) : (x >>= f) = r := by
  subst h
  exact h'

theorem decodeOpen_params (a : OpenArgs) (h : WellFormed.openArgs a = true) :
    decodeOpen (Request.openConv a).params = some (.openConv a) := by
  simp only [WellFormed.openArgs, Bool.and_eq_true] at h
  obtain ⟨⟨⟨⟨⟨h1, h2⟩, h3⟩, h4⟩, h5⟩, h6⟩ := h
  simp only [Request.params, List.append_assoc, decodeOpen, takeNum1 h1, takeListWf h2, takeOptNum1 h3,
    takeOptNum2 h4, takeOptNum1 h5, ends (takeOptNum2 h6), Option.bind_eq_bind, Option.bind_some, noneLeft, if_true]

theorem decodeScan_params (st n d : Nat) (f : List Nat) (h : (Request.scan st n d f).fits = true) :
    decodeScan (Request.scan st n d f).params = some (.scan st n d f) := by
  simp only [Request.fits, Bool.and_eq_true] at h
  obtain ⟨⟨⟨h1, h2⟩, h3⟩, h4⟩ := h
  simp only [Request.params, List.append_assoc, decodeScan, takeNum2 h1, takeNum1 h2, takeNum1 h3,
    ends (takeSetWf h4), Option.bind_eq_bind, Option.bind_some, noneLeft, if_true]

theorem decodeSetStation_params (a : SetStationArgs) (h : WellFormed.setStationArgs a = true) :
    decodeSetStation (Request.setStation a).params = some (.setStation a) := by
  simp only [WellFormed.setStationArgs, Bool.and_eq_true] at h
  obtain ⟨⟨⟨⟨h1, h2⟩, h3⟩, h4⟩, h5⟩ := h
  simp only [Request.params, List.append_assoc, decodeSetStation, takeOptNum2 h1, takeOptNum2 h2,
    takeOptNum2 h3, takeOptNum2 h4, ends (takeOptNum2 h5), Option.bind_eq_bind, Option.bind_some, noneLeft, if_true]

theorem decodeAddPeer_params (a : AddPeerArgs) (h : WellFormed.addPeerArgs a = true) :
    decodeAddPeer (Request.addPeer a).params = some (.addPeer a) := by
  simp only [WellFormed.addPeerArgs, Bool.and_eq_true] at h
  obtain ⟨⟨⟨⟨⟨⟨h1, h2⟩, h3⟩, h4⟩, h5⟩, h6⟩, h7⟩ := h
  simp only [Request.params, PerPath.toList, List.flatMap_cons, List.flatMap_nil, List.append_nil, List.append_assoc]
  unfold decodeAddPeer
  refine takeStep (takeNum2 h1 _) (takeStep (takeOptLink _ _) (takeStep (takeOptLink _ _) (takeStep (takeOptLink _ _)
    (takeStep (takeOptLink _ _) (takeStep (takeOptNum1 h2 _) (takeStep (takeOptList h3 _) (takeStep (takeOptNum1 h4 _)
    (takeStep (takeOptNum2 h5 _) (takeStep (takeOptNum1 h6 _) (takeStep (ends (takeOptNum2 h7)) ?_))))))))))
  rfl

theorem decodeSetPath_params (p : Nat) (a : SetPathArgs) (h0 : WellFormed.fits 8 p = true)
    (h : WellFormed.setPathArgs a = true) : decodeSetPath (Request.setPath p a).params = some (.setPath p a) := by
  simp only [WellFormed.setPathArgs, Bool.and_eq_true] at h
  obtain ⟨⟨⟨⟨⟨⟨⟨⟨h1, h2⟩, h3⟩, h4⟩, h5⟩, h6⟩, h7⟩, h8⟩, h9⟩ := h
  simp only [Request.params, List.append_assoc]
  unfold decodeSetPath
  refine takeStep (takeNum1 h0 _) (takeStep (takeOptNum2 h1 _) (takeStep (takeOptNum1 h2 _) (takeStep (takeOptNum1 h3 _)
    (takeStep (takeOptNum2 h4 _) (takeStep (takeOptNum2 h5 _) (takeStep (takeOptNum1 h6 _) (takeStep (takeOptSet h7 _)
    (takeStep (takeOptSet h8 _) (takeStep (ends (takeOptNum1 h9)) ?_)))))))))
  rfl

/-- Every request whose values fit decodes from its parameters under its code. -/
theorem decodeParams_params (r : Request) (h : r.fits = true) : decodeParams r.code r.params = some (some r) := by
  cases r with
  | openConv a => exact congrArg some (decodeOpen_params a h)
  | close h' m =>
      simp only [Request.fits, Bool.and_eq_true] at h
      simp [decodeParams, Request.code, Request.params, decodeTwo, takeNum2 h.1, ends (takeNum1 h.2), noneLeft]
  | hold h' d =>
      simp only [Request.fits, Bool.and_eq_true] at h
      simp [decodeParams, Request.code, Request.params, decodeTwo, takeNum2 h.1, ends (takeNum2 h.2), noneLeft]
  | release h' => simp [decodeParams, Request.code, Request.params, decodeOne2 h]
  | shift h' t =>
      simp only [Request.fits, Bool.and_eq_true] at h
      simp [decodeParams, Request.code, Request.params, decodeShift, takeNum2 h.1, ends (takeOptNum1 h.2), noneLeft]
  | restage h' l =>
      simp only [Request.fits, Bool.and_eq_true] at h
      simp [decodeParams, Request.code, Request.params, decodeRestage, takeNum2 h.1, ends (takeListWf h.2), noneLeft]
  | clearReturned h' q =>
      simp only [Request.fits, Bool.and_eq_true] at h
      simp [decodeParams, Request.code, Request.params, decodeTwo, takeNum2 h.1, ends (takeNum4 h.2), noneLeft]
  | readConversation h' => simp [decodeParams, Request.code, Request.params, decodeOne2 h]
  | readJournal h' => simp [decodeParams, Request.code, Request.params, decodeOne2 h]
  | scan st n d f => exact congrArg some (decodeScan_params st n d f h)
  | addPeer a => exact congrArg some (decodeAddPeer_params a h)
  | removePeer k => simp [decodeParams, Request.code, Request.params, decodeOne1 h]
  | readPeer k => simp [decodeParams, Request.code, Request.params, decodeOne1 h]
  | setPath p a =>
      simp only [Request.fits, Bool.and_eq_true] at h
      exact congrArg some (decodeSetPath_params p a h.1 h.2)
  | quench p => simp [decodeParams, Request.code, Request.params, decodeOne1 h]
  | revive p => simp [decodeParams, Request.code, Request.params, decodeOne1 h]
  | drain p => simp [decodeParams, Request.code, Request.params, decodeOne1 h]
  | readPath p => simp [decodeParams, Request.code, Request.params, decodeOne1 h]
  | setStation a => exact congrArg some (decodeSetStation_params a h)
  | readStation => simp [decodeParams, Request.code, Request.params, noneLeft]
  | setNoticeMask r =>
      simp [decodeParams, Request.code, Request.params, decodeSetNoticeMask, ends (takeSetWf h), noneLeft]
  | restart k => simp [decodeParams, Request.code, Request.params, decodeOne1 h]

/-- The body of a request decodes to the request (R158). -/
theorem decodeRequest_body (tag : Nat) (r : Request) (h : r.fits = true) :
    decodeRequest tag r.body = .request tag r := by
  have hc : r.code < 256 := by cases r <;> simp [Request.code]
  have e : r.body = BitVec.ofNat 8 r.code :: r.params := by simp [Request.body, octetsOf]
  rw [e]
  simp only [decodeRequest, BitVec.toNat_ofNat, show r.code % 2 ^ 8 = r.code from Nat.mod_eq_of_lt hc,
    decodeParams_params r h]

/-- The body of a SEND whose length field numbers its payload decodes to it (R158). -/
theorem decodeSend_body (tag h k : Nat) (payload : List Byte) (hh : WellFormed.fits 16 h = true)
    (hk : WellFormed.fits 8 k = true) (hp : payload.length < 65536) :
    decodeSend tag (sendBody h k payload.length payload) = .send tag h k payload.length payload := by
  have h1 := numberOf_octetsOf (n := 2) (v := h) (by simpa using fits_iff.1 hh)
  have h2 := numberOf_octetsOf (n := 1) (v := k) (by simpa using fits_iff.1 hk)
  have h3 := numberOf_octetsOf (n := 2) (v := payload.length) (by simpa using hp)
  unfold decodeSend sendBody
  rw [if_neg (by simp; omega)]
  simp only [octetsOf, List.cons_append, List.nil_append, List.drop_succ_cons, List.drop_zero, List.take_succ_cons,
    List.take_zero] at h1 h2 h3 ⊢
  rw [h1, h2, h3, if_pos rfl]

end Sys2Proof.Machine
end

