-- ==== Sys2Proof/Laws/Transmit.lean ====
section
/-! SUPPORT. What the pass at the end of a taking leaves alone: the transmitters touch paths and conversations, the
outbound arbiter touches the host link, the delivery queue's mark and the notice sets. -/

namespace Sys2Proof.Machine

@[simp] theorem beginData_pending (p : Path) (h : Nat) (s : State) : (beginData p h s).pending = s.pending := by
  unfold beginData; (repeat' split) <;> simp

@[simp] theorem beginData_inReset (p : Path) (h : Nat) (s : State) : (beginData p h s).inReset = s.inReset := by
  unfold beginData; (repeat' split) <;> simp

@[simp] theorem beginData_stc (p : Path) (h : Nat) (s : State) : (beginData p h s).stc = s.stc := by
  unfold beginData; (repeat' split) <;> simp

@[simp] theorem beginData_rts (p : Path) (h : Nat) (s : State) : (beginData p h s).rts = s.rts := by
  unfold beginData; (repeat' split) <;> simp

@[simp] theorem beginData_dlq (p : Path) (h : Nat) (s : State) : (beginData p h s).dlq = s.dlq := by
  unfold beginData; (repeat' split) <;> simp

@[simp] theorem beginData_prt (p : Path) (h : Nat) (s : State) : (beginData p h s).prt = s.prt := by
  unfold beginData; (repeat' split) <;> simp

@[simp] theorem beginData_she (p : Path) (h : Nat) (s : State) : (beginData p h s).she = s.she := by
  unfold beginData; (repeat' split) <;> simp

@[simp] theorem beginData_hlu (p : Path) (h : Nat) (s : State) : (beginData p h s).hlu = s.hlu := by
  unfold beginData; (repeat' split) <;> simp

@[simp] theorem beginData_ntu (p : Path) (h : Nat) (s : State) : (beginData p h s).ntu = s.ntu := by
  unfold beginData; (repeat' split) <;> simp

@[simp] theorem beginPort_pending (p : Path) (s : State) : (beginPort p s).pending = s.pending := by
  unfold beginPort; simp only; (repeat' split) <;> simp

@[simp] theorem beginPort_inReset (p : Path) (s : State) : (beginPort p s).inReset = s.inReset := by
  unfold beginPort; simp only; (repeat' split) <;> simp

@[simp] theorem beginPort_stc (p : Path) (s : State) : (beginPort p s).stc = s.stc := by
  unfold beginPort; simp only; (repeat' split) <;> simp

@[simp] theorem beginPort_rts (p : Path) (s : State) : (beginPort p s).rts = s.rts := by
  unfold beginPort; simp only; (repeat' split) <;> simp

@[simp] theorem beginPort_dlq (p : Path) (s : State) : (beginPort p s).dlq = s.dlq := by
  unfold beginPort; simp only; (repeat' split) <;> simp

@[simp] theorem beginPort_prt (p : Path) (s : State) : (beginPort p s).prt = s.prt := by
  unfold beginPort; simp only; (repeat' split) <;> simp

@[simp] theorem beginPort_she (p : Path) (s : State) : (beginPort p s).she = s.she := by
  unfold beginPort; simp only; (repeat' split) <;> simp

@[simp] theorem beginPort_hlu (p : Path) (s : State) : (beginPort p s).hlu = s.hlu := by
  unfold beginPort; simp only; (repeat' split) <;> simp

@[simp] theorem beginPort_ntu (p : Path) (s : State) : (beginPort p s).ntu = s.ntu := by
  unfold beginPort; simp only; (repeat' split) <;> simp

@[simp] theorem beginAll_pending (s : State) : (beginAll s).pending = s.pending := by
  simp [beginAll]

@[simp] theorem beginAll_inReset (s : State) : (beginAll s).inReset = s.inReset := by
  simp [beginAll]

@[simp] theorem beginAll_stc (s : State) : (beginAll s).stc = s.stc := by
  simp [beginAll]

@[simp] theorem beginAll_rts (s : State) : (beginAll s).rts = s.rts := by
  simp [beginAll]

@[simp] theorem beginAll_dlq (s : State) : (beginAll s).dlq = s.dlq := by
  simp [beginAll]

@[simp] theorem beginAll_prt (s : State) : (beginAll s).prt = s.prt := by
  simp [beginAll]

@[simp] theorem beginAll_she (s : State) : (beginAll s).she = s.she := by
  simp [beginAll]

@[simp] theorem beginAll_hlu (s : State) : (beginAll s).hlu = s.hlu := by
  simp [beginAll]

@[simp] theorem beginAll_ntu (s : State) : (beginAll s).ntu = s.ntu := by
  simp [beginAll]

/-- Building a notice touches the notice unit alone. -/
theorem buildNotice_ntu (t : NoticeTurn) (s : State) : (buildNotice t s).2 = { s with ntu := (buildNotice t s).2.ntu } := by
  cases t <;> rfl

@[simp] theorem buildNotice_pending (t : NoticeTurn) (s : State) : (buildNotice t s).2.pending = s.pending := by
  cases t <;> rfl

@[simp] theorem buildNotice_inReset (t : NoticeTurn) (s : State) : (buildNotice t s).2.inReset = s.inReset := by
  cases t <;> rfl

@[simp] theorem buildNotice_stc (t : NoticeTurn) (s : State) : (buildNotice t s).2.stc = s.stc := by
  cases t <;> rfl

@[simp] theorem buildNotice_convs (t : NoticeTurn) (s : State) : (buildNotice t s).2.convs = s.convs := by
  cases t <;> rfl

@[simp] theorem buildNotice_rts (t : NoticeTurn) (s : State) : (buildNotice t s).2.rts = s.rts := by
  cases t <;> rfl

@[simp] theorem buildNotice_paths (t : NoticeTurn) (s : State) : (buildNotice t s).2.paths = s.paths := by
  cases t <;> rfl

@[simp] theorem buildNotice_prt (t : NoticeTurn) (s : State) : (buildNotice t s).2.prt = s.prt := by
  cases t <;> rfl

@[simp] theorem buildNotice_she (t : NoticeTurn) (s : State) : (buildNotice t s).2.she = s.she := by
  cases t <;> rfl

@[simp] theorem buildNotice_dlq (t : NoticeTurn) (s : State) : (buildNotice t s).2.dlq = s.dlq := by
  cases t <;> rfl

@[simp] theorem buildNotice_hlu (t : NoticeTurn) (s : State) : (buildNotice t s).2.hlu = s.hlu := by
  cases t <;> rfl

@[simp] theorem chooseOut_pending (s : State) : (chooseOut s).pending = s.pending := by
  unfold chooseOut beginDeliver beginNotice setShared; (repeat' split) <;> simp

@[simp] theorem chooseOut_inReset (s : State) : (chooseOut s).inReset = s.inReset := by
  unfold chooseOut beginDeliver beginNotice setShared; (repeat' split) <;> simp

@[simp] theorem chooseOut_stc (s : State) : (chooseOut s).stc = s.stc := by
  unfold chooseOut beginDeliver beginNotice setShared; (repeat' split) <;> simp

@[simp] theorem chooseOut_convs (s : State) : (chooseOut s).convs = s.convs := by
  unfold chooseOut beginDeliver beginNotice setShared; (repeat' split) <;> simp

@[simp] theorem chooseOut_rts (s : State) : (chooseOut s).rts = s.rts := by
  unfold chooseOut beginDeliver beginNotice setShared; (repeat' split) <;> simp

@[simp] theorem chooseOut_paths (s : State) : (chooseOut s).paths = s.paths := by
  unfold chooseOut beginDeliver beginNotice setShared; (repeat' split) <;> simp

@[simp] theorem chooseOut_prt (s : State) : (chooseOut s).prt = s.prt := by
  unfold chooseOut beginDeliver beginNotice setShared; (repeat' split) <;> simp

@[simp] theorem chooseOut_she (s : State) : (chooseOut s).she = s.she := by
  unfold chooseOut beginDeliver beginNotice setShared; (repeat' split) <;> simp

@[simp] theorem chooseOut_dlq_entries (s : State) : (chooseOut s).dlq.entries = s.dlq.entries := by
  unfold chooseOut beginDeliver beginNotice setShared; (repeat' split) <;> simp

@[simp] theorem chooseOut_hlu_input (s : State) : (chooseOut s).hlu.input = s.hlu.input := by
  unfold chooseOut beginDeliver beginNotice setShared; (repeat' split) <;> simp

@[simp] theorem chooseOut_hlu_restart (s : State) : (chooseOut s).hlu.restart = s.hlu.restart := by
  unfold chooseOut beginDeliver beginNotice setShared; (repeat' split) <;> simp

@[simp] theorem chooseOut_hlu_parser (s : State) : (chooseOut s).hlu.parser = s.hlu.parser := by
  unfold chooseOut beginDeliver beginNotice setShared; (repeat' split) <;> simp

@[simp] theorem afterEvent_pending (s : State) : (afterEvent s).pending = s.pending := by
  simp [afterEvent]

@[simp] theorem afterEvent_inReset (s : State) : (afterEvent s).inReset = s.inReset := by
  simp [afterEvent]

@[simp] theorem afterEvent_stc (s : State) : (afterEvent s).stc = s.stc := by
  simp [afterEvent]

@[simp] theorem afterEvent_rts (s : State) : (afterEvent s).rts = s.rts := by
  simp [afterEvent]

@[simp] theorem afterEvent_prt (s : State) : (afterEvent s).prt = s.prt := by
  simp [afterEvent]

@[simp] theorem afterEvent_she (s : State) : (afterEvent s).she = s.she := by
  simp [afterEvent]

@[simp] theorem afterEvent_dlq_entries (s : State) : (afterEvent s).dlq.entries = s.dlq.entries := by
  simp [afterEvent]

@[simp] theorem afterEvent_hlu_input (s : State) : (afterEvent s).hlu.input = s.hlu.input := by
  simp [afterEvent]

@[simp] theorem afterEvent_hlu_restart (s : State) : (afterEvent s).hlu.restart = s.hlu.restart := by
  simp [afterEvent]

@[simp] theorem afterEvent_hlu_parser (s : State) : (afterEvent s).hlu.parser = s.hlu.parser := by
  simp [afterEvent]

/-- The outbound arbiter takes at most the head of the reply queue. -/
theorem chooseOut_replies (s : State) :
    (chooseOut s).hlu.replies = s.hlu.replies ∨ (chooseOut s).hlu.replies = s.hlu.replies.tail := by
  unfold chooseOut beginDeliver beginNotice setShared
  split
  · exact .inl rfl
  · split
    · rename_i h; right; simp [h]
    · rename_i h; left; (repeat' split) <;> simp [h]

/-- A reply that waits is not ahead of the ones before it: with the link free the first one is begun (R169). -/
theorem chooseOut_reply {s : State} {r : Reply} {l : List Reply} (h : s.hlu.out = none) (hr : s.hlu.replies = r :: l) :
    (chooseOut s).hlu.out = some (.reply r) := by
  unfold chooseOut
  rw [h, hr]
  rfl

/-- The replies after the end of a taking: no more than before. -/
theorem afterEvent_replies_length (s : State) : (afterEvent s).hlu.replies.length ≤ s.hlu.replies.length := by
  have h := chooseOut_replies (beginAll s)
  unfold afterEvent
  rcases h with h | h <;> rw [h] <;> simp

/-- A port's look leaves the other paths as they stand. -/
theorem beginPort_other (p q : Path) (s : State) (h : q ≠ p) : (beginPort p s).path q = s.path q := by
  unfold beginPort beginData
  simp only
  (repeat' split) <;> simp [State.path_updPath, h] <;> rfl

end Sys2Proof.Machine
end

