-- ==== Sys2Proof/Laws/Link.lean ====
section
/-! SUPPORT. The host link in one lemma per form: a record that ends while the link is ready is decoded, decided by its
owner and answered in the same taking. -/

namespace Sys2Proof.Machine

theorem State.ready.acceptHigh {s : State} (h : s.ready) : s.acceptHigh = true := by
  obtain ⟨h1, h2, _, h4⟩ := h
  simp [State.acceptHigh, h1, h2, h4, Config.inputEntries]

@[simp] theorem hunting_outer (s : State) :
    s.hunting.pending = s.pending ∧ s.hunting.inReset = s.inReset ∧ s.hunting.stc = s.stc ∧
      s.hunting.convs = s.convs ∧ s.hunting.paths = s.paths ∧ s.hunting.prt = s.prt :=
  ⟨rfl, rfl, rfl, rfl, rfl, rfl⟩

/-- An entry that joins an empty buffer with room for its reply is taken at once, on the state without it. -/
theorem endRecord_ready (e : RecordEnd) {s : State} (h2 : s.hlu.input = [])
    (h3 : s.hlu.replies.length < Config.replyEntries) (h4 : s.hlu.restart = none) :
    endRecord e s = afterEvent (decideTaking (decodeEntry e) s) := by
  have hs : updHlu (fun u => { u with input := [] }) (updHlu (fun u => { u with input := u.input ++ [e] }) s) = s := by
    cases s with
    | mk _ _ _ _ _ _ _ _ _ u _ =>
      cases u
      simp_all [updHlu]
  have hc : (updHlu (fun u => { u with input := u.input ++ [e] }) s).canTake = true := by
    simp [State.canTake, h3, h4]
  have ht : takeHead (updHlu (fun u => { u with input := u.input ++ [e] }) s) = decideTaking (decodeEntry e) s := by
    unfold takeHead
    simp only [updHlu_hlu, h2, List.nil_append]
    rw [hs]
  unfold endRecord intakeAll
  have hl : (updHlu (fun u => { u with input := u.input ++ [e] }) s).hlu.input.length = 1 := by simp [h2]
  rw [hl]
  unfold intake
  rw [if_pos hc, ht]
  rfl

/-- A record that ends on a ready link is taken at once. -/
theorem hostRecord_ready (e : RecordEnd) {s : State} (h : s.ready) :
    hostRecord e s = afterEvent (decideTaking (decodeEntry e) s.hunting) := by
  unfold hostRecord
  rw [if_pos h.acceptHigh]
  exact endRecord_ready e (s := s.hunting) h.2.1 h.2.2.1 h.2.2.2

/-- A request whose values fit, ending on a ready link, is decided by its owner and answered. -/
theorem hostRecord_request (tag : Nat) (r : Request) (hr : r.fits = true) {s : State} (h : s.ready) :
    hostRecord (.request tag r.body) s = afterEvent (answerWith tag r.code (ownRequest r s.hunting)) := by
  rw [hostRecord_ready _ h]
  simp only [decodeEntry, decodeRequest_body tag r hr, decideTaking]

/-- A SEND whose length field numbers its payload, ending on a ready link, is decided by the conversation table. -/
theorem hostRecord_send (tag h k : Nat) (payload : List Byte) (hh : WellFormed.fits 16 h = true)
    (hk : WellFormed.fits 8 k = true) (hp : payload.length < 65536) {s : State} (hs : s.ready) :
    hostRecord (.send tag (sendBody h k payload.length payload)) s =
      afterEvent (answerWith tag sendCode (ownSend h k payload s.hunting)) := by
  rw [hostRecord_ready _ hs]
  simp only [decodeEntry, decodeSend_body tag h k payload hh hk hp, decideTaking]

/-- While RSTN is low an event changes nothing. -/
theorem event_inReset (f : State → State) {s : State} (h : s.inReset = true) : event f s = s := by
  simp [event, h]

/-- With RSTN high an event is its taking and what it leaves to send. -/
theorem event_running (f : State → State) {s : State} (h : s.inReset = false) : event f s = afterEvent (f s) := by
  simp [event, h]

/-- What every own request leaves alone but SET STATION and RESTART. -/
theorem answerWith_pending (tag code : Nat) (a : Answer) : (answerWith tag code a).pending = a.state.pending := rfl

/-- A frame that passes its format check keeps its source node. -/
theorem formatCheck_srcNode {hd : RxHead} {b : RxBody} {f : RxFrame} (hf : formatCheck hd b = some f) :
    f.srcNode = hd.srcNode := by
  unfold formatCheck at hf
  split at hf
  · simp at hf
  · split at hf
    · split at hf
      · simp at hf; rw [← hf]
      · simp at hf
    · simp at hf

/-- What `takeFrame` leaves of a frame that passes the checks is what its arrival command answers (R83, R154). -/
theorem arrival_takes {s : State} {p : Path} {hd : RxHead} {b : RxBody} {f : RxFrame} (hP : PassesChecks s p hd)
    (hf : formatCheck hd b = some f) {t : State} (ht : takeFrame p f s = t) :
    Takes (arrival p hd b) s t := by
  obtain ⟨h1, h2, h3, h4, h5, h6, h7, h8, h9⟩ := hP
  have hc : exec (arrival p hd b) s = .next (event (receive p hd b) s) := by cases b <;> rfl
  unfold Takes
  rw [hc, event_running _ h1]
  unfold receive checkAndTake
  rw [if_pos h2, hf]
  simp [h3, h4, h5, h6, ht]

/-! ## The parser -/

/-- The octets that end a record in CONTENT hand it over. -/
theorem parse_content (len : Nat) : ∀ (rest kept : List Byte) (outs : List RecordEnd), rest ≠ [] →
    kept.length + rest.length = len + 2 →
    rest.foldl (fun a o => ((parseOctet o a.1).1, a.2 ++ (parseOctet o a.1).2.toList))
        (Parser.content len kept, outs) =
      (.hunting, outs ++ [recordOfOctets len (kept ++ rest)])
  | [], _, _, h, _ => absurd rfl h
  | [o], kept, outs, _, hl => by
    simp at hl
    simp [parseOctet, show ¬ (kept.length ≤ len) by omega]
  | o :: o2 :: rest, kept, outs, _, hl => by
    simp at hl
    have h := parse_content len (o2 :: rest) (kept ++ [o]) outs (by simp) (by simp; omega)
    rw [List.foldl_cons]
    have : parseOctet o (.content len kept) = (.content len (kept ++ [o]), none) := by
      simp [parseOctet, show (kept.length ≤ len) by omega]
    simp only [this, Option.toList_none, Option.toList_some, List.append_nil]
    rw [h]; simp

/-- A start octet, a length in range and as many octets as it calls for hand over one record (R156). -/
theorem parsed_frame (len : Nat) (h2 : 2 ≤ len) (h3 : len ≤ 1024) (rest : List Byte) (hr : rest.length = len + 2) :
    parsed (0xC3#8 :: (octetsOf 2 len ++ rest)) = (.hunting, [recordOfOctets len rest]) := by
  unfold parsed
  have e : octetsOf 2 len = [BitVec.ofNat 8 (len / 256), BitVec.ofNat 8 len] := by simp [octetsOf]
  have hv : (BitVec.ofNat 8 (len / 256)).toNat * 256 + (BitVec.ofNat 8 len).toNat = len := by
    simp
    omega
  rw [e]
  simp only [List.cons_append, List.nil_append, List.foldl_cons]
  have p1 : parseOctet 0xC3#8 .hunting = (.length none, none) := rfl
  have p2 : ∀ o, parseOctet o (.length none) = (.length (some o), none) := fun _ => rfl
  have p3 : parseOctet (BitVec.ofNat 8 len) (.length (some (BitVec.ofNat 8 (len / 256)))) =
      (.content len [], none) := by
    simp only [parseOctet, hv]
    rw [if_pos (by simp [inRange, h2, h3])]
  simp only [p1, p2, p3, Option.toList_none, Option.toList_some, List.append_nil]
  rw [parse_content len rest [] [] (by intro h; simp [h] at hr) (by simpa using hr)]
  simp

end Sys2Proof.Machine
end

