-- ==== Sys2Proof/Tests/Slice0.lean ====
section
/-! SUPPORT. Tests of the model: terms that `wellFormed` refuses, check values of the two cyclic codes, and for every
statement with hypotheses a state and operands that meet them. -/

set_option maxRecDepth 100000

namespace Sys2Proof.Tests

open Sys2Proof.Machine

/-! ## Terms that are not well-formed -/

theorem test_illFormed_recordEnd : (Instr.hostRecordEnd (.request 256 [])).wellFormed = false ∧
    (Instr.hostRecordEnd (.send 256 [])).wellFormed = false ∧
    (Instr.hostRecordEnd (.request 0 (List.replicate 1023 0#8))).wellFormed = false ∧
    (Instr.hostRecordEnd (.send 0 (List.replicate 1023 0#8))).wellFormed = false := by decide

theorem test_illFormed_unknownRequest : (Instr.unknownRequest 256 0 []).wellFormed = false ∧
    (Instr.unknownRequest 0 256 []).wellFormed = false ∧ (Instr.unknownRequest 0 1 []).wellFormed = false ∧
    (Instr.unknownRequest 0 22 []).wellFormed = false ∧
    (Instr.unknownRequest 0 23 (List.replicate 1022 0#8)).wellFormed = false := by decide

theorem test_illFormed_send : (Instr.send 256 0 1 0 []).wellFormed = false ∧
    (Instr.send 0 65536 1 0 []).wellFormed = false ∧ (Instr.send 0 0 256 0 []).wellFormed = false ∧
    (Instr.send 0 0 1 65536 []).wellFormed = false ∧
    (Instr.send 0 0 1 1018 (List.replicate 1018 0#8)).wellFormed = false := by decide

theorem test_illFormed_openArgs : (Instr.openConv 256 ⟨0, [0], none, none, none, none⟩).wellFormed = false ∧
    (Instr.openConv 0 ⟨256, [0], none, none, none, none⟩).wellFormed = false ∧
    (Instr.openConv 0 ⟨0, [256], none, none, none, none⟩).wellFormed = false ∧
    (Instr.openConv 0 ⟨0, List.replicate 256 0, none, none, none, none⟩).wellFormed = false ∧
    (Instr.openConv 0 ⟨0, [0], some 256, none, none, none⟩).wellFormed = false ∧
    (Instr.openConv 0 ⟨0, [0], none, some 65536, none, none⟩).wellFormed = false ∧
    (Instr.openConv 0 ⟨0, [0], none, none, some 256, none⟩).wellFormed = false ∧
    (Instr.openConv 0 ⟨0, [0], none, none, none, some 65536⟩).wellFormed = false := by decide

theorem test_illFormed_conversationRequests : (Instr.closeGraceful 256 0).wellFormed = false ∧
    (Instr.closeGraceful 0 65536).wellFormed = false ∧ (Instr.closeAbort 256 0).wellFormed = false ∧
    (Instr.closeAbort 0 65536).wellFormed = false ∧ (Instr.hold 256 0 0).wellFormed = false ∧
    (Instr.hold 0 65536 0).wellFormed = false ∧ (Instr.hold 0 0 65536).wellFormed = false ∧
    (Instr.release 256 0).wellFormed = false ∧ (Instr.release 0 65536).wellFormed = false ∧
    (Instr.shift 256 0 none).wellFormed = false ∧ (Instr.shift 0 65536 none).wellFormed = false ∧
    (Instr.shift 0 0 (some 256)).wellFormed = false ∧ (Instr.restage 256 0 []).wellFormed = false ∧
    (Instr.restage 0 65536 []).wellFormed = false ∧ (Instr.restage 0 0 [256]).wellFormed = false ∧
    (Instr.clearReturned 256 0 0).wellFormed = false ∧ (Instr.clearReturned 0 65536 0).wellFormed = false ∧
    (Instr.clearReturned 0 0 4294967296).wellFormed = false := by decide

theorem test_illFormed_readingRequests : (Instr.readConversation 256 0).wellFormed = false ∧
    (Instr.readConversation 0 65536).wellFormed = false ∧ (Instr.readJournal 256 0).wellFormed = false ∧
    (Instr.readJournal 0 65536).wellFormed = false ∧ (Instr.scan 256 0 1 1 [2]).wellFormed = false ∧
    (Instr.scan 0 65536 1 1 [2]).wellFormed = false ∧ (Instr.scan 0 0 256 1 [2]).wellFormed = false ∧
    (Instr.scan 0 0 1 256 [2]).wellFormed = false ∧ (Instr.scan 0 0 1 1 [256]).wellFormed = false ∧
    (Instr.scan 0 0 1 1 [2, 2]).wellFormed = false ∧ (Instr.readPeer 256 0).wellFormed = false ∧
    (Instr.readPeer 0 256).wellFormed = false ∧ (Instr.readPath 256 0).wellFormed = false ∧
    (Instr.readPath 0 256).wellFormed = false ∧ (Instr.readStation 256).wellFormed = false := by decide

theorem test_illFormed_addPeerArgs :
    (Instr.addPeer 256 ⟨1, PerPath.all none, none, none, none, none, none, none⟩).wellFormed = false ∧
    (Instr.addPeer 0 ⟨65536, PerPath.all none, none, none, none, none, none, none⟩).wellFormed = false ∧
    (Instr.addPeer 0 ⟨1, PerPath.all none, some 256, none, none, none, none, none⟩).wellFormed = false ∧
    (Instr.addPeer 0 ⟨1, PerPath.all none, none, some [256], none, none, none, none⟩).wellFormed = false ∧
    (Instr.addPeer 0 ⟨1, PerPath.all none, none, none, some 256, none, none, none⟩).wellFormed = false ∧
    (Instr.addPeer 0 ⟨1, PerPath.all none, none, none, none, some 65536, none, none⟩).wellFormed = false ∧
    (Instr.addPeer 0 ⟨1, PerPath.all none, none, none, none, none, some 256, none⟩).wellFormed = false ∧
    (Instr.addPeer 0 ⟨1, PerPath.all none, none, none, none, none, none, some 65536⟩).wellFormed = false := by decide

theorem test_illFormed_pathRequests : (Instr.removePeer 256 0).wellFormed = false ∧
    (Instr.removePeer 0 256).wellFormed = false ∧ (Instr.quench 256 0).wellFormed = false ∧
    (Instr.quench 0 256).wellFormed = false ∧ (Instr.revive 256 0).wellFormed = false ∧
    (Instr.revive 0 256).wellFormed = false ∧ (Instr.drain 256 0).wellFormed = false ∧
    (Instr.drain 0 256).wellFormed = false ∧
    (Instr.setPath 256 0 ⟨none, none, none, none, none, none, none, none, none⟩).wellFormed = false ∧
    (Instr.setPath 0 256 ⟨none, none, none, none, none, none, none, none, none⟩).wellFormed = false := by decide

theorem test_illFormed_setPathArgs :
    (Instr.setPath 0 0 ⟨some 65536, none, none, none, none, none, none, none, none⟩).wellFormed = false ∧
    (Instr.setPath 0 0 ⟨none, some 256, none, none, none, none, none, none, none⟩).wellFormed = false ∧
    (Instr.setPath 0 0 ⟨none, none, some 256, none, none, none, none, none, none⟩).wellFormed = false ∧
    (Instr.setPath 0 0 ⟨none, none, none, some 65536, none, none, none, none, none⟩).wellFormed = false ∧
    (Instr.setPath 0 0 ⟨none, none, none, none, some 65536, none, none, none, none⟩).wellFormed = false ∧
    (Instr.setPath 0 0 ⟨none, none, none, none, none, some 256, none, none, none⟩).wellFormed = false ∧
    (Instr.setPath 0 0 ⟨none, none, none, none, none, none, some [1, 1], none, none⟩).wellFormed = false ∧
    (Instr.setPath 0 0 ⟨none, none, none, none, none, none, none, some [2, 2], none⟩).wellFormed = false ∧
    (Instr.setPath 0 0 ⟨none, none, none, none, none, none, none, none, some 256⟩).wellFormed = false := by decide

theorem test_illFormed_stationRequests :
    (Instr.setStation 256 ⟨none, none, none, none, none⟩).wellFormed = false ∧
    (Instr.setStation 0 ⟨some 65536, none, none, none, none⟩).wellFormed = false ∧
    (Instr.setStation 0 ⟨none, some 65536, none, none, none⟩).wellFormed = false ∧
    (Instr.setStation 0 ⟨none, none, some 65536, none, none⟩).wellFormed = false ∧
    (Instr.setStation 0 ⟨none, none, none, some 65536, none⟩).wellFormed = false ∧
    (Instr.setStation 0 ⟨none, none, none, none, some 65536⟩).wellFormed = false ∧
    (Instr.setNoticeMask 256 []).wellFormed = false ∧ (Instr.setNoticeMask 0 [1, 1]).wellFormed = false ∧
    (Instr.restartCold 256).wellFormed = false ∧ (Instr.restartWarm 256).wellFormed = false ∧
    (Instr.emptyRequestBody 256).wellFormed = false := by decide

/-- A received frame's head to port P0 of node 5 from node 9. -/
def head (src dst shift : Nat) : RxHead := ⟨0x0A0000000005#48, 0x0A0000000009#48, 0x88B5, 9, 5, src, dst, shift⟩

theorem test_illFormed_rxHead : (Instr.openReceived .p0 { head 0 0 0 with etherType := 65536 }).wellFormed = false ∧
    (Instr.openReceived .p0 { head 0 0 0 with srcNode := 65536 }).wellFormed = false ∧
    (Instr.openReceived .p0 { head 0 0 0 with dstNode := 65536 }).wellFormed = false ∧
    (Instr.openReceived .p0 (head 65536 0 0)).wellFormed = false ∧
    (Instr.openReceived .p0 (head 0 65536 0)).wellFormed = false ∧
    (Instr.openReceived .p0 (head 0 0 4294967296)).wellFormed = false := by decide

theorem test_illFormed_frames : (Instr.dataReceived .p0 (head 0 0 0) 4294967296 1 []).wellFormed = false ∧
    (Instr.dataReceived .p0 (head 0 0 0) 1 256 []).wellFormed = false ∧
    (Instr.ackReceived .p0 (head 0 0 0) 4294967296).wellFormed = false ∧
    (Instr.waitReceived .p0 (head 0 0 0) 4294967296).wellFormed = false ∧
    (Instr.inquiryReceived .p0 (head 0 0 0) (some 4294967296)).wellFormed = false ∧
    (Instr.answerReceived .p0 (head 0 0 0) 256 none 0).wellFormed = false ∧
    (Instr.answerReceived .p0 (head 0 0 0) 1 (some 4294967296) 0).wellFormed = false ∧
    (Instr.answerReceived .p0 (head 0 0 0) 1 none 4294967296).wellFormed = false ∧
    (Instr.openReplyReceived .p0 (head 0 0 0) 256).wellFormed = false ∧
    (Instr.closeReceived .p0 (head 0 0 0) 4294967296).wellFormed = false ∧
    (Instr.closeReplyReceived .p0 (head 0 0 0) 4294967296).wellFormed = false := by decide

theorem test_illFormed_frameHeads : (Instr.dataReceived .p0 (head 65536 0 0) 1 1 []).wellFormed = false ∧
    (Instr.ackReceived .p0 (head 65536 0 0) 1).wellFormed = false ∧
    (Instr.waitReceived .p0 (head 65536 0 0) 1).wellFormed = false ∧
    (Instr.inquiryReceived .p0 (head 65536 0 0) none).wellFormed = false ∧
    (Instr.answerReceived .p0 (head 65536 0 0) 1 none 1).wellFormed = false ∧
    (Instr.openReplyReceived .p0 (head 65536 0 0) 1).wellFormed = false ∧
    (Instr.closeReceived .p0 (head 65536 0 0) 1).wellFormed = false ∧
    (Instr.closeReplyReceived .p0 (head 65536 0 0) 1).wellFormed = false ∧
    (Instr.abandonReceived .p0 (head 65536 0 0)).wellFormed = false ∧
    (Instr.probeReceived .p0 (head 65536 0 0)).wellFormed = false ∧
    (Instr.echoReceived .p0 (head 65536 0 0)).wellFormed = false := by decide

theorem test_illFormed_payload (l : List Byte) (h : l.length = 65536) :
    (Instr.dataReceived .p0 (head 0 0 0) 1 1 l).wellFormed = false := by
  simp [Instr.wellFormed, WellFormed.fits, h]

theorem test_illFormed_timers : (Instr.ackTimerExpiry 256).wellFormed = false ∧
    (Instr.inquiryTimerExpiry 256).wellFormed = false ∧ (Instr.waitPauseExpiry 256).wellFormed = false ∧
    (Instr.openTimerExpiry 256).wellFormed = false ∧ (Instr.closeTimerExpiry 256).wellFormed = false ∧
    (Instr.holdExpiry 256).wellFormed = false ∧ (Instr.parkExpiry 256).wellFormed = false ∧
    (Instr.holdOffExpiry 8).wellFormed = false ∧ (Instr.slotInquiryExpiry 8).wellFormed = false := by decide

/-! ## The cyclic codes -/

/-- The octets of "123456789". -/
def digits : List Byte := [0x31#8, 0x32#8, 0x33#8, 0x34#8, 0x35#8, 0x36#8, 0x37#8, 0x38#8, 0x39#8]

/-- The check of R155: polynomial 0x1021 from all ones. -/
theorem test_recordCheck : crc16 digits = 0x29B1#16 := by decide

/-- The FCS of R151, least significant octet first. -/
theorem test_frameCheck : fcsOf digits = [0x26#8, 0x39#8, 0xF4#8, 0xCB#8] := by decide

/-- A READ STATION record on the link, octet by octet, with its check (Table 8-4). -/
theorem test_recordOctets : (recordOctets 1 0x7B [20#8]).take 6 = [0xC3#8, 0x00#8, 0x03#8, 0x01#8, 0x7B#8, 0x14#8] ∧
    (recordOctets 1 0x7B [20#8]).length = 8 := by decide

/-! ## Small states -/

/-- A conversation with peer slot 3, handle 9 there. -/
def conv (st : ConvState) (active : Option Path) : Conv :=
  { freshConv 3 .opener [.p0, .p1] 16 100 2 20 with state := st, peerHandle := some 9, active := active }

/-- A journal record. -/
def jrec (q : Nat) (k : RecKind) (st : JStatus) : JRec := ⟨q, k, 1, q, st, none⟩

/-- Node 9, REACHABLE on P0 and P1. -/
def peer : Peer where
  node := 9
  links := ⟨⟨some 0x0A0000000009#48, .reachable, 0, true, some 0⟩, ⟨some 0x0A0000010009#48, .reachable, 0, true, some 0⟩,
    ⟨none, .unknown, 0, false, none⟩, ⟨none, .unknown, 0, false, none⟩⟩
  admission := true
  admitList := some [.p0]
  cap := 16
  ackInterval := 100
  retryLimit := 2
  holdOff := 20

/-- A path with its line UP. -/
def path (st : PathState) : PathRec := { PathRec.atStart 0 with state := st, lineUp := true }

/-- Node 5 with that peer in slot 3, P0 SOUND, P1 SUSPECT, P2 and P3 DOWN, no notice pending, and the conversations given. -/
def station (convs : KMap Conv) : State :=
  { State.reset with
    stc := { Stc.atStart 0 with nodeId := 5, frameType := 0x88B5 }
    convs := convs
    paths := ⟨path .sound, path .suspect, PathRec.atStart 0, PathRec.atStart 0⟩
    prt := { peers := [(3, peer)], rounds := ⟨some 100000, some 100000, none, none⟩ }
    ntu := { State.reset.ntu with station := [] } }

/-- The station with conversation 7 as given. -/
def demo (c : Conv) : State := station [(7, c)]

/-- The code and result of the reply that a command on a ready, silent link begins. -/
def replied (c : Instr) (s : State) : Option (Nat × Result) :=
  match exec c s with
  | .next t =>
      match t.hlu.out with
      | some (.reply r) => some (r.code, r.result)
      | _ => none
  | _ => none

/-- The state that a command answers. -/
def after (c : Instr) (s : State) : State :=
  match exec c s with
  | .next t => t
  | _ => s

/-- The body of the frame in transmission on a path. -/
def sent (p : Path) (s : State) : Option FrameBody := (s.path p).tx.map TxFrame.body

theorem test_ready (convs : KMap Conv) : (station convs).ready := ⟨rfl, rfl, Nat.zero_lt_succ 7, rfl⟩

theorem test_reaches : Reaches (demo (conv .carrying (some .p0))) .p0 (head 9 7 1) 3 := by
  refine ⟨⟨rfl, ?_⟩, ?_⟩ <;> decide

/-! ## States and operands that meet the statements' hypotheses -/

theorem test_meets_StepRunsTheFrontCommand :
    ({ State.reset with pending := [.powerOn, .badRecord] }).pending = .powerOn :: [.badRecord] ∧
      State.reset.pending = [] := ⟨rfl, rfl⟩

theorem test_meets_EveryStepKeepsTheBuffersBounded :
    LinkBounded State.reset ∧ QueueBounded State.reset ∧ step State.reset = .next (idle State.reset) :=
  ⟨⟨Nat.zero_le 8, Nat.zero_le 8⟩, Nat.zero_le 64, rfl⟩

theorem test_meets_EveryStepKeepsTheScoresBounded :
    ScoresBounded State.reset ∧ step State.reset = .next (idle State.reset) :=
  ⟨fun p => by cases p <;> decide, rfl⟩

theorem test_meets_EveryStepKeepsTheCellsInBalance :
    StoreCanonical State.reset ∧ TablesCanonical State.reset ∧ CellsBalance State.reset ∧
      step State.reset = .next (idle State.reset) :=
  ⟨rfl, ⟨rfl, rfl⟩, by unfold CellsBalance; decide, rfl⟩

theorem test_meets_EveryCommandAnswersANextState :
    Instr.badRecord ≠ .powerOn ∧ Instr.badRecord ≠ .resetAssert ∧
      exec .badRecord State.reset = .next (hostRecord .bad State.reset) :=
  ⟨by decide, by decide, rfl⟩

/-- A frame in transmission. -/
def txFrame : TxFrame := ⟨0#48, 0#48, 0x88B5, 5, 9, none, none, 0, .probe⟩

theorem test_meets_TheEndOfATakingOnlyBeginsSending :
    ((demo (conv .parked none)).withPath .p0 { path .sound with tx := some txFrame }).path .p0 ≠ path .sound ∧
      ({ demo (conv .parked none) with hlu := { Hlu.atStart with out := some (.reply ⟨0, 1, .done, []⟩) } }).hlu.out ≠ none ∧
      (demo (conv .parked none)).conv 7 = some (conv .parked none) ∧ (demo (conv .parked none)).conv 8 = none ∧
      (conv .parked none).state ≠ .carrying := by decide

/-- A conversation with one WAITING record that P0 can send. -/
def sendable : Conv := { conv .carrying (some .p0) with journal := [⟨1, .ordinary, 1, 1, .waiting, none⟩] }

theorem test_meets_TheEndOfATakingOnlyBeginsSending_data :
    ((afterEvent (demo sendable)).path .p0).rotation ≠ ((demo sendable).path .p0).rotation ∧
      (demo sendable).conv 7 = some sendable ∧
      (afterEvent (demo sendable)).conv 7 =
        some { sendable with
          journal := [⟨1, .ordinary, 1, 1, .sent, some 1⟩], ackTimer := .ackWait 100000 } := by decide

theorem test_meets_TheEndOfATakingOnlyBeginsSending_link :
    (station []).hlu.out = none ∧ (station []).hlu.replies = [] ∧ (station []).dlq.entries = [] ∧
      (station []).ntu.firstReady = none ∧ State.reset.ntu.firstReady = some .station ∧
      State.reset.hlu.lastShared = .deliver ∧
      ({ State.reset with dlq := { entries := [⟨7, 1, .ordinary, 1, [0#8]⟩], tx := .none } }).dlq.entries =
        [⟨7, 1, .ordinary, 1, [0#8]⟩] ∧
      ({ State.reset with hlu := { Hlu.atStart with lastShared := .notice } }).hlu.lastShared = .notice ∧
      ({ State.reset with hlu := { Hlu.atStart with replies := [⟨0, 1, .done, []⟩] } }).hlu.replies =
        [⟨0, 1, .done, []⟩] := by decide

theorem test_meets_PowerOnAndResetHoldThePowerOnValues :
    ({ State.reset with inReset := true } : State) =
      { State.reset with pending := ({ State.reset with inReset := true } : State).pending, inReset := true } ∧
      Instr.badRecord ≠ .powerOn := ⟨rfl, by decide⟩

theorem test_meets_ARecordEndIsBufferedAndDecoded :
    ({ State.reset with inReset := true }).acceptHigh = false ∧
      ({ State.reset with hlu := { Hlu.atStart with replies := List.replicate 8 ⟨0, 1, .done, []⟩ } }).acceptHigh = true ∧
      (Instr.unknownRequest 255 0 []).wellFormed = true ∧ (Instr.unknownRequest 255 23 []).wellFormed = true ∧
      replied (.unknownRequest 1 23 []) (station []) = some (23, .unknownRequest) ∧
      replied (.emptyRequestBody 1) (station []) = some (0, .badValue) ∧
      replied .badRecord (station []) = some (0, .badRecord) := by decide

theorem test_meets_ARecordEndIsBufferedAndDecoded_bodies :
    (Request.hold 65535 65535).fits = true ∧
      decodeEntry (.request 7 (octetsOf 1 3 ++ (Request.hold 65535 65535).params)) = .request 7 (.hold 65535 65535) ∧
      decodeEntry (.send 7 [0#8, 9#8, 1#8, 0#8, 1#8, 0x55#8]) = .send 7 9 1 1 [0x55#8] ∧
      decodeEntry (.send 7 [0#8, 9#8, 1#8, 0#8, 2#8, 0x55#8]) = .malformed 7 255 := by decide

theorem test_meets_TheParserFramesARecord :
    (255 < 256 ∧ (List.replicate 1022 0#8).length ≤ 1022) ∧ (0xC2#8 : Byte) ≠ 0xC3#8 ∧
      (recordOctets 1 1 [20#8]).foldl
          (fun (a : Parser × List RecordEnd) o => ((parseOctet o a.1).1, a.2 ++ (parseOctet o a.1).2.toList))
          (.hunting, []) = (.hunting, [.request 1 [20#8]]) := by decide

/-- The parser at the ends of its ranges: kinds 1, 2 and 3, a wrong check, and lengths 1, 2 and 1025. -/
theorem test_meets_TheParserFramesARecord_kinds :
    parsed (recordOctets 1 255 [20#8]) = (.hunting, [.request 255 [20#8]]) ∧
      parsed (recordOctets 2 0 [20#8]) = (.hunting, [.send 0 [20#8]]) ∧
      parsed (recordOctets 3 0 [20#8]) = (.hunting, [.bad]) ∧ parsed (recordOctets 1 0 []) = (.hunting, [.request 0 []]) ∧
      parsed [0xC3#8, 0#8, 2#8, 1#8, 0#8, 0#8, 0#8] = (.hunting, [.bad]) ∧
      parsed (0xC3#8 :: octetsOf 2 1) = (.hunting, [.bad]) ∧ parsed (0xC3#8 :: octetsOf 2 1025) = (.hunting, [.bad]) ∧
      octetsOfReasons [.closed, .settled] = [2#8, 3#8, 12#8] := by decide

theorem test_meets_AnArrivingOctetMovesTheParser :
    State.reset.acceptHigh = true ∧ (parseOctet 0xC3#8 State.reset.hlu.parser).2 = none ∧
      ({ State.reset with inReset := true }).acceptHigh = false ∧
      (parseOctet 1#8 (.length (some 0#8))).2 = some .bad ∧ (parseOctet 2#8 (.length (some 0#8))).2 = none ∧
      (parseOctet 0#8 (.length (some 4#8))).2 = none ∧ (parseOctet 1#8 (.length (some 4#8))).2 = some .bad := by decide

theorem test_meets_SendIsCheckedAndAccepted :
    (Instr.send 1 7 1 1 [0#8]).wellFormed = true ∧
      replied (.send 1 7 1 2 [0#8]) (demo (conv .parked none)) = some (255, .badValue) ∧
      replied (.send 1 256 1 1 [0#8]) (demo (conv .parked none)) = some (255, .badHandle) ∧
      replied (.send 1 7 1 1 [0#8]) (demo (conv .lapsed none)) = some (255, .wrongState) ∧
      replied (.send 1 7 1 0 []) (demo (conv .parked none)) = some (255, .badValue) ∧
      replied (.send 1 7 3 1 [0#8]) (demo (conv .parked none)) = some (255, .badValue) ∧
      replied (.send 1 7 1 1 [0#8]) (demo { conv .parked none with nextSeq := none }) = some (255, .exhausted) ∧
      replied (.send 1 7 1 1 [0#8]) (demo { conv .parked none with cap := 0 }) = some (255, .limit) ∧
      replied (.send 1 7 1 1 [0#8]) { demo (conv .parked none) with rts := { cells := [], free := [] } } =
        some (255, .full) ∧
      replied (.send 1 7 2 1 [0#8]) (demo { conv .parked none with nextSeq := some 4294967295 }) =
        some (255, .accepted) := by decide

theorem test_meets_SendIsCheckedAndAccepted_longest :
    replied (.send 1 7 1 512 (List.replicate 512 0#8)) (demo (conv .parked none)) = some (255, .accepted) ∧
      replied (.send 1 7 1 513 (List.replicate 513 0#8)) (demo (conv .parked none)) = some (255, .badValue) := by
  decide +kernel

theorem test_meets_OpenIsCheckedAndAccepted :
    (Instr.openConv 1 ⟨3, [0], none, none, none, none⟩).wellFormed = true ∧
      replied (.openConv 1 ⟨31, [0], none, none, none, none⟩) (station []) = some (1, .noPeer) ∧
      replied (.openConv 1 ⟨32, [0], none, none, none, none⟩) (station []) = some (1, .noPeer) ∧
      replied (.openConv 1 ⟨3, [4], none, none, none, none⟩) (station []) = some (1, .badList) ∧
      replied (.openConv 1 ⟨3, [0], some 65, none, none, none⟩) (station []) = some (1, .badValue) ∧
      replied (.openConv 1 ⟨3, [2, 3], none, none, none, none⟩) (station []) = some (1, .noPath) ∧
      replied (.openConv 1 ⟨3, [3, 0], some 64, some 10, some 0, some 250⟩) (station []) = some (1, .accepted) ∧
      replied (.openConv 1 ⟨3, [0], none, none, none, none⟩)
        { station [] with stc := { Stc.atStart 0 with nodeId := 5 } } = some (1, .noStation) := by decide

theorem test_meets_OpenIsCheckedAndAccepted_noRoom :
    replied (.openConv 1 ⟨3, [0], none, none, none, none⟩)
      (station ((List.range 256).map fun h => (h, conv .parked none))) = some (1, .noRoom) := by decide +kernel

/-- An OPEN frame of handle 0 to node 9 on P0. -/
def openFrame : QFrame := ⟨9, 0x0A0000000009#48, some 0, none, 0, .openFrame, some 0⟩

theorem test_meets_OpenIsCheckedAndAccepted_queue :
    (peer.links.get .p0).link = some 0x0A0000000009#48 ∧ ((station []).path .p0).class2 = [] ∧
      (∃ f ∈ [openFrame], f.body = .openFrame ∧ f.srcHandle = some 0) ∧ 64 ≤ (List.replicate 64 openFrame).length ∧
      ({ peer with links := peer.links.set .p0 ⟨none, .reachable, 0, true, none⟩ }.links.get .p0).link = none := by
  decide

theorem test_meets_OpenIsCheckedAndAccepted_settings :
    settingsOk (some 1) (some 10) (some 0) (some 0) = true ∧ settingsOk (some 64) (some 2000) (some 7) (some 250) = true ∧
      settingsOk none none none none = true ∧ settingsOk (some 0) none none none = false ∧
      settingsOk (some 65) none none none = false ∧ settingsOk none (some 9) none none = false ∧
      settingsOk none (some 2001) none none = false ∧ settingsOk none none (some 8) none = false ∧
      settingsOk none none none (some 251) = false := by decide

theorem test_meets_CloseIsDecidedByModeAndState :
    (Instr.closeGraceful 1 7).wellFormed = true ∧
      replied (.closeGraceful 1 256) (demo (conv .parked none)) = some (2, .badHandle) ∧
      replied (.closeAbort 1 8) (demo (conv .parked none)) = some (2, .badHandle) ∧
      replied (.closeGraceful 1 7) (demo (conv .lapsed none)) = some (2, .done) ∧
      replied (.closeGraceful 1 7) (demo (conv .parked none)) = some (2, .accepted) ∧
      replied (.closeGraceful 1 7) (demo { conv .parked none with closeStage := .draining }) = some (2, .wrongState) ∧
      replied (.closeAbort 1 7) (demo (conv .carrying (some .p0))) = some (2, .done) ∧
      (conv .opening none).prefs.find? ((demo (conv .opening none)).usable 4) = none := by decide

/-- A conversation whose close waits for nothing but the CLOSE frame. -/
def draining : Conv := { conv .carrying (some .p0) with closeStage := .draining }

theorem test_meets_CloseIsDecidedByModeAndState_abort :
    (conv .carrying (some .p0)).peerHandle = some 9 ∧
      (conv .carrying (some .p0)).prefs.find? ((station []).usable 3) = some .p0 ∧ (station []).peer 3 = some peer ∧
      (station []).linkOn 3 .p0 = some 0x0A0000000009#48 ∧
      ({ station [] with prt :=
          { peers := [(3, { peer with links := peer.links.set .p0 ⟨none, .reachable, 0, true, none⟩ })],
            rounds := PerPath.all none } }).linkOn 3 .p0 = none ∧
      ((station []).path .p0).class2.length < 64 ∧ 64 ≤ (List.replicate 64 openFrame).length ∧
      (conv .opening none).prefs.find? ((station []).usable 3) = some .p0 ∧
      ({ conv .opening none with peerHandle := none }).peerHandle = none ∧
      (demo (conv .carrying (some .p0))).she.queue = [] := by decide

theorem test_meets_CloseIsDecidedByModeAndState_closeFrame :
    (demo draining).conv 7 = some draining ∧ draining.state = .carrying ∧ draining.active = some .p0 ∧
      hasSent draining.journal = false ∧ hasWaiting draining.journal = false ∧ draining.nextSeq = some 1 ∧
      hasSent [jrec 1 .ordinary .sent] = true ∧ hasWaiting [jrec 1 .ordinary .waiting] = true ∧
      ({ draining with nextSeq := none }).nextSeq = none ∧ (conv .carrying (some .p0)).closeStage ≠ .draining := by
  decide

theorem test_meets_HoldSetsTheHold :
    (Instr.hold 1 7 60000).wellFormed = true ∧
      replied (.hold 1 256 1) (demo (conv .parked none)) = some (3, .badHandle) ∧
      replied (.hold 1 7 1) (demo (conv .lapsed none)) = some (3, .wrongState) ∧
      replied (.hold 1 7 0) (demo (conv .parked none)) = some (3, .badValue) ∧
      replied (.hold 1 7 60001) (demo (conv .parked none)) = some (3, .badValue) ∧
      replied (.hold 1 7 1) (demo (conv .parked none)) = some (3, .done) ∧
      replied (.hold 1 7 60000) (demo (conv .parked none)) = some (3, .done) := by decide

theorem test_meets_ReleaseIsDecidedByTheHold :
    (Instr.release 1 7).wellFormed = true ∧
      replied (.release 1 256) (demo (conv .parked none)) = some (4, .badHandle) ∧
      replied (.release 1 7) (demo { conv .withheld none with hold := some 5 }) = some (4, .done) ∧
      replied (.release 1 7) (demo { conv .parked none with hold := some 5 }) = some (4, .done) ∧
      replied (.release 1 7) (demo { conv .parked none with holdExpired := true }) = some (4, .expired) ∧
      replied (.release 1 7) (demo (conv .parked none)) = some (4, .notHeld) := by decide

theorem test_meets_ShiftForcesAShift :
    (Instr.shift 1 7 (some 3)).wellFormed = true ∧
      replied (.shift 1 256 none) (demo (conv .parked none)) = some (5, .badHandle) ∧
      replied (.shift 1 7 (some 4)) (demo (conv .parked none)) = some (5, .badValue) ∧
      replied (.shift 1 7 (some 3)) (demo (conv .shifting none)) = some (5, .busy) ∧
      replied (.shift 1 7 (some 3)) (demo (conv .shiftQueued none)) = some (5, .busy) ∧
      replied (.shift 1 7 none) (demo (conv .opening none)) = some (5, .wrongState) ∧
      replied (.shift 1 7 none) (demo (conv .lapsed none)) = some (5, .wrongState) ∧
      replied (.shift 1 7 (some 1)) (demo (conv .carrying (some .p0))) = some (5, .accepted) ∧
      replied (.shift 1 7 (some 0)) (demo (conv .withheld none)) = some (5, .accepted) ∧
      replied (.shift 1 7 none) (demo (conv .parked none)) = some (5, .accepted) := by decide

theorem test_meets_RestageStagesTheList :
    (Instr.restage 1 7 [3]).wellFormed = true ∧
      replied (.restage 1 256 [3]) (demo (conv .parked none)) = some (6, .badHandle) ∧
      replied (.restage 1 7 [3]) (demo (conv .lapsed none)) = some (6, .wrongState) ∧
      replied (.restage 1 7 []) (demo (conv .parked none)) = some (6, .badList) ∧
      replied (.restage 1 7 [4]) (demo (conv .parked none)) = some (6, .badList) ∧
      replied (.restage 1 7 [1, 1]) (demo (conv .parked none)) = some (6, .badList) ∧
      replied (.restage 1 7 [3, 2, 1, 0]) (demo (conv .carrying (some .p0))) = some (6, .done) ∧
      replied (.restage 1 7 [0]) (demo (conv .parked none)) = some (6, .done) := by decide

theorem test_meets_RestageStagesTheList_quietPoint :
    ({ conv .carrying (some .p0) with staged := some [.p1, .p0] }).staged = some [.p1, .p0] ∧
      Path.p0 ∈ [Path.p1, .p0] ∧ Path.p0 ∉ [Path.p1] ∧ (conv .carrying (some .p0)).staged = none ∧
      hasSent (conv .carrying (some .p0)).journal = false ∧ (conv .carrying (some .p0)).active = some .p0 ∧
      (conv .parked none).state ≠ .carrying := by decide

theorem test_meets_ClearReturnedRemovesTheRecord :
    (Instr.clearReturned 1 7 4294967295).wellFormed = true ∧
      replied (.clearReturned 1 256 1) (demo (conv .parked none)) = some (7, .badHandle) ∧
      replied (.clearReturned 1 7 0) (demo (conv .parked none)) = some (7, .badValue) ∧
      replied (.clearReturned 1 7 4294967295) (demo (conv .parked none)) = some (7, .wrongState) ∧
      replied (.clearReturned 1 7 1) (demo { conv .parked none with journal := [jrec 1 .singleShot .sent] }) =
        some (7, .wrongState) ∧
      replied (.clearReturned 1 7 1) (demo { conv .lapsed none with journal := [jrec 1 .singleShot .returned] }) =
        some (7, .done) := by decide

theorem test_meets_ReadingChangesNothing :
    replied (.readConversation 1 255) (station []) = some (8, .done) ∧
      replied (.readConversation 1 256) (station []) = some (8, .badHandle) ∧
      replied (.readConversation 1 7) (demo (conv .parked none)) = some (8, .done) ∧
      replied (.readJournal 1 255) (station []) = some (9, .badHandle) ∧
      replied (.readJournal 1 7) (demo (conv .parked none)) = some (9, .done) ∧
      replied (.readPeer 1 31) (station []) = some (13, .done) ∧
      replied (.readPeer 1 32) (station []) = some (13, .badHandle) ∧
      replied (.readPeer 1 3) (station []) = some (13, .done) ∧
      replied (.readPath 1 3) (station []) = some (18, .done) ∧
      replied (.readPath 1 4) (station []) = some (18, .badHandle) := by decide

theorem test_meets_ScanReportsMatchingHandlesInOrder :
    (Instr.scan 1 255 16 2 [7]).wellFormed = true ∧
      replied (.scan 1 255 16 2 [7]) (demo (conv .parked none)) = some (10, .done) ∧
      replied (.scan 1 0 1 1 [2, 8]) (demo (conv .parked none)) = some (10, .done) ∧
      replied (.scan 1 256 1 1 [7]) (demo (conv .parked none)) = some (10, .badValue) ∧
      replied (.scan 1 0 0 1 [7]) (demo (conv .parked none)) = some (10, .badValue) ∧
      replied (.scan 1 0 17 1 [7]) (demo (conv .parked none)) = some (10, .badValue) ∧
      replied (.scan 1 0 1 3 [7]) (demo (conv .parked none)) = some (10, .badValue) ∧
      replied (.scan 1 0 1 1 []) (demo (conv .parked none)) = some (10, .badValue) ∧
      replied (.scan 1 0 1 1 [1]) (demo (conv .parked none)) = some (10, .badValue) ∧
      replied (.scan 1 0 1 1 [9]) (demo (conv .parked none)) = some (10, .badValue) := by decide +kernel

/-- With a count of 1 the second of two matching handles is left to the next walk, in either direction. -/
theorem test_meets_ScanReportsMatchingHandlesInOrder_stopped :
    ((scanWalk 0 1).filter ((station [(7, conv .parked none), (9, conv .parked none)]).scanMatch [7])).take 1 = [7] ∧
      ((scanWalk 255 2).filter ((station [(7, conv .parked none), (9, conv .parked none)]).scanMatch [7])).take 1 = [9] ∧
      ((scanWalk 0 1).filter ((station [(7, conv .parked none), (9, conv .parked none)]).scanMatch [7])).take 3 =
        [7, 9] ∧ codeOfState (some (conv .parked none).state) = 7 := by decide +kernel

/-- The continue handle at the ends of the walk. -/
theorem test_meets_ScanReportsMatchingHandlesInOrder_ends :
    scanContinue 1 254 = some 255 ∧ scanContinue 1 255 = none ∧ scanContinue 2 1 = some 0 ∧ scanContinue 2 0 = none ∧
      scanSummary 7 (conv .parked none) = [0#8, 7#8, 7#8, 3#8, 0#8, 1#8, 0#8, 0#8, 0#8, 0#8, 0#8] := by decide

theorem test_meets_ReadStationReportsTheStationFields :
    State.reset.ready ∧ replied (.readStation 255) State.reset = some (20, .done) :=
  ⟨⟨rfl, rfl, Nat.zero_lt_succ 7, rfl⟩, by decide⟩

theorem test_meets_AddPeerIsCheckedAndAccepted :
    (Instr.addPeer 1 ⟨65534, PerPath.all none, none, none, none, none, none, none⟩).wellFormed = true ∧
      replied (.addPeer 1 ⟨0, PerPath.all none, none, none, none, none, none, none⟩) (station []) =
        some (11, .badValue) ∧
      replied (.addPeer 1 ⟨65535, PerPath.all none, none, none, none, none, none, none⟩) (station []) =
        some (11, .badValue) ∧
      replied (.addPeer 1 ⟨5, PerPath.all none, none, none, none, none, none, none⟩) (station []) =
        some (11, .badValue) ∧
      replied (.addPeer 1 ⟨9, PerPath.all none, none, none, none, none, none, none⟩) (station []) =
        some (11, .badValue) ∧
      replied (.addPeer 1 ⟨1, PerPath.all none, some 1, none, none, none, none, none⟩) (station []) =
        some (11, .badList) ∧
      replied (.addPeer 1 ⟨1, PerPath.all (some 0#48), none, none, none, none, none, none⟩) (station []) =
        some (11, .badValue) ∧
      replied (.addPeer 1 ⟨65534, PerPath.all none, none, none, none, none, none, none⟩) (station []) =
        some (11, .done) ∧
      replied (.addPeer 1 ⟨1, PerPath.all none, none, none, none, none, none, none⟩)
        { station [] with prt := { peers := (List.range 32).map fun k => (k, peer), rounds := PerPath.all none } } =
        some (11, .noRoom) := by decide

/-- The value check of ADD PEER at the ends of its ranges, and its admission lists. -/
theorem test_meets_AddPeerIsCheckedAndAccepted_values :
    addPeerValuesOk ⟨1, PerPath.all (some 1#48), some 1, none, some 64, some 2000, some 7, some 250⟩ = true ∧
      addPeerValuesOk ⟨1, PerPath.all none, some 0, none, some 1, some 10, some 0, some 0⟩ = true ∧
      addPeerValuesOk ⟨1, PerPath.all (some 0x010000000000#48), none, none, none, none, none, none⟩ = false ∧
      addPeerValuesOk ⟨1, PerPath.all none, some 2, none, none, none, none, none⟩ = false ∧
      admissionList ⟨1, PerPath.all none, none, some [3, 0], none, none, none, none⟩ = some (some [.p3, .p0]) ∧
      admissionList ⟨1, PerPath.all none, none, some [4], none, none, none, none⟩ = none ∧
      admissionList ⟨1, PerPath.all none, none, some [0, 0], none, none, none, none⟩ = none ∧
      admissionList ⟨1, PerPath.all none, none, some [], none, none, none, none⟩ = none ∧
      admissionList ⟨1, PerPath.all none, some 1, none, none, none, none, none⟩ = none ∧
      admissionList ⟨1, PerPath.all none, some 0, none, none, none, none, none⟩ = some none ∧
      admissionList ⟨1, PerPath.all (some 1#48), some 1, none, none, none, none, none⟩ = some (some Path.all) := by decide

theorem test_meets_RemovePeerRemovesAnUnusedEntry :
    (Instr.removePeer 1 3).wellFormed = true ∧ (station []).peer 3 ≠ none ∧ (station []).convs = [] ∧
      replied (.removePeer 1 32) (station []) = some (12, .badHandle) ∧
      replied (.removePeer 1 31) (station []) = some (12, .noPeer) ∧
      replied (.removePeer 1 3) (demo (conv .parked none)) = some (12, .inUse) ∧
      replied (.removePeer 1 3) (station []) = some (12, .done) := by decide

/-- Node 11, UNREACHABLE on P0. -/
def silent : Peer := { peer with node := 11, links := peer.links.set .p0 ⟨some 0x0A000000000B#48, .unreachable, 3, false, none⟩ }

/-- The station with that second peer in slot 4. -/
def stationOfTwo : State :=
  { station [] with prt := { peers := [(3, peer), (4, silent)], rounds := PerPath.all none } }

theorem test_meets_RemovePeerRemovesAnUnusedEntry_peerAll :
    stationOfTwo.ready ∧ stationOfTwo.peer 3 = some peer ∧ (peer.links.get .p0).link ≠ none ∧
      (peer.links.get .p0).reach ≠ .unreachable ∧ (peer.links.get .p3).link = none ∧
      (silent.links.get .p0).reach = .unreachable ∧ stationOfTwo.peer 4 = some silent ∧
      (stationOfTwo.path .p0).state.live = true ∧ QuenchSource.peerAll ∈ (stationOfTwo.path .p0).sources :=
  ⟨⟨rfl, rfl, Nat.zero_lt_succ 7, rfl⟩, rfl, by decide, by decide, by decide, by decide, by decide, by decide, by decide⟩

theorem test_peerAllOver_p0 : PeerAllOver stationOfTwo .p0 (fun j => j ≠ 3) := by
  refine ⟨⟨4, silent, by decide, rfl, by decide⟩, fun j e hj he _ => ?_⟩
  by_cases h : j = 4
  · subst h; cases he; rfl
  · have : stationOfTwo.peer j = none := by
      show KMap.get? [(3, peer), (4, silent)] j = none
      simp [KMap.get?, Ne.symm hj, Ne.symm h]
    rw [this] at he; cases he

theorem test_run_removePeer :
    ((after (.removePeer 1 3) stationOfTwo).path .p0).cause = some .peerAll ∧
      ((after (.removePeer 1 3) stationOfTwo).path .p1).state = .suspect := by decide

theorem test_meets_SetPathWritesTheSettings :
    (Instr.setPath 1 3 ⟨none, none, none, none, none, none, none, none, none⟩).wellFormed = true ∧
      replied (.setPath 1 4 ⟨none, none, none, none, none, none, none, none, none⟩) (station []) =
        some (14, .badHandle) ∧
      replied (.setPath 1 0 ⟨none, none, none, none, none, none, none, none, none⟩) (station []) =
        some (14, .busy) ∧
      replied (.setPath 1 3 ⟨some 99, none, none, none, none, none, none, none, none⟩) (station []) =
        some (14, .badValue) ∧
      replied (.setPath 1 3 ⟨none, none, none, none, none, none, none, some [3], none⟩) (station []) =
        some (14, .badValue) ∧
      replied (.setPath 1 3 ⟨some 100, some 0, some 1, some 60000, some 1000, some 15, some [], some [0], some 1⟩)
        (station []) = some (14, .done) := by decide

/-- The value check of SET PATH at the ends of its ranges, and what is written. -/
theorem test_meets_SetPathWritesTheSettings_values :
    setPathOk .p3 ⟨some 100, some 0, some 1, some 100, some 10, some 2, some [1, 4], some [0, 1, 2], some 0⟩ = true ∧
      setPathOk .p0 ⟨some 10000, none, none, some 60000, some 1000, some 15, some [], some [], some 1⟩ = true ∧
      setPathOk .p0 ⟨some 10001, none, none, none, none, none, none, none, none⟩ = false ∧
      setPathOk .p0 ⟨none, none, none, none, none, some 1, none, none, none⟩ = false ∧
      setPathOk .p0 ⟨none, none, none, none, none, none, some [0], none, none⟩ = false ∧
      setPathOk .p0 ⟨none, none, none, none, none, none, some [5], none, none⟩ = false ∧
      setPathOk .p0 ⟨none, none, none, none, none, none, none, some [0], none⟩ = false ∧
      sourcesOr [] (some [1, 4]) ≠ [] ∧ companionsOr [] (some [3]) = [.p3] ∧ companionsOr [.p1] (some []) = [] := by decide

theorem test_meets_QuenchReviveAndDrainAreDecidedByState :
    replied (.quench 1 4) (station []) = some (15, .badHandle) ∧
      replied (.revive 1 4) (station []) = some (16, .badHandle) ∧
      replied (.drain 1 4) (station []) = some (17, .badHandle) ∧
      replied (.quench 1 0) (station []) = some (15, .done) ∧
      replied (.quench 1 3) (station []) = some (15, .wrongState) ∧
      replied (.revive 1 0) (station []) = some (16, .wrongState) ∧
      replied (.revive 1 0) ((station []).withPath .p0 { path .quenched with score := 255 }) =
        some (16, .causePresent) ∧
      replied (.revive 1 0) ((station []).withPath .p0 { path .quenched with score := 254 }) = some (16, .accepted) ∧
      replied (.revive 1 0) ((station []).withPath .p0 { path .drained with lineUp := false }) = some (16, .done) ∧
      replied (.drain 1 3) (station []) = some (17, .done) ∧
      replied (.drain 1 0) ((station []).withPath .p0 (path .drained)) = some (17, .wrongState) ∧
      (((station []).withPath .p0 (path .proving)).path .p0).state = .proving ∧
      ∀ q, q ≠ .p0 → Path.p0 ∉ (((station []).withPath .p0 (path .proving)).path q).companions :=
  ⟨by decide, by decide, by decide, by decide, by decide, by decide, by decide, by decide, by decide, by decide,
    by decide, by decide, fun q _ => by cases q <;> decide⟩

/-- P0 QUENCHED by an alarm that has ended, with auto-revive, and P1 quenched as its companion. -/
def quenched : State :=
  ((station []).withPath .p0 { path .quenched with cause := some .plane, autoRevive := true }).withPath .p1
    { path .quenched with cause := some .companion, autoRevive := true, companions := [.p0], sources := [.companion] }

theorem test_meets_QuenchReviveAndDrainAreDecidedByState_chains :
    ((station []).path .p0).state.live = true ∧ ((station []).path .p0).state.inService = true ∧
      (quenched.path .p0).state = .quenched ∧ quenched.testPassed .p0 = true ∧ (quenched.path .p0).lineUp = true ∧
      (path .drained).state = .drained ∧ ({ path .quenched with lineUp := false }).lineUp = false ∧
      ((station []).path .p3).state.inService = false ∧ ((station []).path .p3).state ≠ .quenched ∧
      (quenched.path .p0).cause = some .plane ∧ (quenched.path .p0).alarm = false ∧
      (quenched.path .p1).cause = some .companion ∧ quenched.testPassed .p1 = false ∧
      ((quenchPath .p0 .manual
        ((station []).withPath .p1 { path .suspect with companions := [.p0], sources := [.companion] })).path .p1).state =
          .quenched ∧
      ((releaseEvent .p0 quenched).path .p1).state = .proving ∧ (releaseEvent .p1 quenched) = quenched := by decide

theorem test_meets_SetStationWritesTheStationFields :
    (Instr.setStation 1 ⟨some 65534, none, none, none, none⟩).wellFormed = true ∧ (station []).convs = [] ∧
      replied (.setStation 1 ⟨none, none, none, none, none⟩) (demo (conv .lapsed none)) = some (19, .busy) ∧
      replied (.setStation 1 ⟨some 65535, none, none, none, none⟩) (station []) = some (19, .badValue) ∧
      replied (.setStation 1 ⟨none, some 0x05FF, none, none, none⟩) (station []) = some (19, .badValue) ∧
      replied (.setStation 1 ⟨some 9, none, none, none, none⟩) (station []) = some (19, .badValue) ∧
      replied (.setStation 1 ⟨some 0, some 0x0600, some 5, some 2000, some 3600⟩) (station []) = some (19, .done) ∧
      replied (.setStation 1 ⟨some 65534, some 0xFFFF, none, none, none⟩) (station []) = some (19, .done) := by
  decide

/-- The value check of SET STATION at the ends of its ranges. -/
theorem test_meets_SetStationWritesTheStationFields_values :
    setStationOk ⟨some 0, some 0, some 5, some 20, some 0⟩ = true ∧
      setStationOk ⟨some 65534, some 0xFFFF, some 500, some 2000, some 3600⟩ = true ∧
      setStationOk ⟨none, some 1, none, none, none⟩ = false ∧ setStationOk ⟨none, none, some 4, none, none⟩ = false ∧
      setStationOk ⟨none, none, some 501, none, none⟩ = false ∧ setStationOk ⟨none, none, none, some 19, none⟩ = false ∧
      setStationOk ⟨none, none, none, some 2001, none⟩ = false ∧
      setStationOk ⟨none, none, none, none, some 3601⟩ = false := by decide

theorem test_meets_SetNoticeMaskReplacesTheMask :
    (Instr.setNoticeMask 1 [1, 19]).wellFormed = true ∧
      replied (.setNoticeMask 1 [0]) (station []) = some (21, .badValue) ∧
      replied (.setNoticeMask 1 [20]) (station []) = some (21, .badValue) ∧
      replied (.setNoticeMask 1 []) (station []) = some (21, .done) ∧
      replied (.setNoticeMask 1 [1, 19]) (station []) = some (21, .done) := by decide

theorem test_meets_SetNoticeMaskReplacesTheMask_turns :
    State.reset.ntu.rotation ≤ 255 ∧ State.reset.ntu.rings State.reset.ntu.station ∧
      ¬ (station []).ntu.rings (station []).ntu.station ∧
      (raisePath .p3 .state (station [])).ntu.rings ((raisePath .p3 .state (station [])).ntu.paths.get .p3) ∧
      (raisePeer 31 .reachability (station [])).ntu.rings
        (reasonsAt (raisePeer 31 .reachability (station [])).ntu.peers 31) ∧
      (raiseConv 255 .lapsed (station [])).ntu.handleRings 255 ∧
      (freezeClosing 0 (conv .parked none) (station [])).ntu.closingRings 0 ∧
      ¬ (station []).ntu.closingRings 0 ∧ ({ State.reset.ntu with rotation := 7 }).turnsTo 8 = 0 ∧
      ({ State.reset.ntu with rotation := 7 }).turnsTo 7 = 255 :=
  ⟨by decide, ⟨.started, by decide, by decide⟩, fun ⟨_, h, _⟩ => (by cases h),
    ⟨.state, by decide, by decide⟩, ⟨.reachability, by decide, by decide⟩, .inr ⟨.lapsed, by decide, by decide⟩,
    ⟨_, rfl, .closed, by decide, by decide⟩, fun ⟨_, h, _⟩ => (by cases h), by decide, by decide⟩

theorem test_meets_RestartIsPendingUntilItsReplyLeaves :
    replied (.restartCold 255) (station []) = some (22, .done) ∧
      replied (.restartWarm 0) (station []) = some (22, .done) ∧
      ({ State.reset with hlu := { Hlu.atStart with restart := some .warm } }).hlu.restart ≠ none := by decide

/-- The host link with a record in transmission. -/
def sending (r : OutRecord) (s : State) : State := { s with hlu := { s.hlu with out := some r } }

/-- A delivery queue entry of conversation 7. -/
def entry : DlqEntry := ⟨7, 1, .ordinary, 1, [0#8]⟩

theorem test_meets_CompletionsFreeTheLink :
    (sending (.deliver entry) { demo (conv .lapsed none) with dlq := { entries := [entry], tx := .head } }).hlu.out =
        some (.deliver entry) ∧
      (demo (conv .lapsed none)).conv entry.handle = some (conv .lapsed none) ∧
      (demo (conv .parked none)).conv entry.handle = some (conv .parked none) ∧
      (conv .parked none).state ≠ .lapsed ∧
      (sending (.deliver entry) { station [] with dlq := { entries := [], tx := .orphaned } }).dlq.tx = .orphaned ∧
      (sending (.notice ⟨.station .powerOn 0 0 0, [.started]⟩) State.reset).hlu.out =
        some (.notice ⟨.station .powerOn 0 0 0, [.started]⟩) ∧
      (sending (.reply ⟨1, 22, .done, []⟩) State.reset).hlu.restart = none ∧
      (21 ≠ 22) ∧ State.reset.hlu.out = none := by decide

/-- A restart whose reply is leaving. -/
def restarting (k : RestartKind) (s : State) : State :=
  { s with hlu := { s.hlu with out := some (.reply ⟨1, 22, .done, []⟩), restart := some k } }

theorem test_meets_AColdRestartClearsThePart :
    (restarting .cold (station [])).hlu.out = some (.reply ⟨1, 22, .done, []⟩) ∧
      (restarting .cold (station [])).hlu.restart = some .cold ∧ ((station []).path .p0).tx = none := by decide

theorem test_meets_AWarmRestartParksTheConversations :
    (restarting .warm (demo (conv .opening none))).hlu.out = some (.reply ⟨1, 22, .done, []⟩) ∧
      (restarting .warm (demo (conv .opening none))).hlu.restart = some .warm ∧
      (restarting .warm (demo (conv .opening none))).conv 7 = some (conv .opening none) ∧
      (restarting .warm (demo (conv .opening none))).conv 8 = none ∧
      (restarting .warm (demo (conv .opening none))).peer 3 = some peer ∧
      (restarting .warm (demo (conv .opening none))).peer 4 = none ∧
      ((station []).path .p0).tx = none := by decide

/-- A state in which frames with the station's addresses reach peer slot 3 on P0. -/
theorem test_reaches_any (convs : KMap Conv) (src dst shift : Nat) (h : shift ≤ 4294967295) :
    Reaches (station convs) .p0 (head src dst shift) 3 :=
  ⟨⟨rfl, rfl, (by decide : (0x88B5 : Nat) ≠ 0), rfl, (by decide : (5 : Nat) ≠ 0), rfl, (by decide : 1 ≤ 9),
    (by decide : 9 ≤ 65534), h⟩, rfl, rfl⟩

theorem test_meets_ReceptionChecksDecideInTheirOrder :
    (head 9 7 1).etherDst = portAddr .p0 (station []).stc.nodeId ∧
      (head 9 7 1).etherDst ≠ portAddr .p1 (station []).stc.nodeId ∧
      formatCheck (head 9 7 1) (.ack 0) ≠ none ∧ formatCheck (head 9 7 1) .probe = none ∧
      State.reset.stc.frameType = 0 ∧ ((station []).path .p3).state = .down ∧
      (station []).inReset = false ∧ fcsOk [] = false ∧
      etherDstOfOctets [0x0A#8, 0#8, 0#8, 0#8, 0#8, 5#8] = portAddr .p0 (station []).stc.nodeId ∧
      fcsOk [0x0A#8, 0#8, 0#8, 0#8, 0#8, 5#8] = false := by decide

/-- A frame of node 8, which no entry names, passes the checks that do not depend on its kind. -/
theorem test_passes_strange (r : PathRec) :
    PassesChecks ((station []).withPath .p0 r) .p0 { head 9 7 1 with srcNode := 8 } :=
  ⟨rfl, rfl, (by decide : (0x88B5 : Nat) ≠ 0), rfl, (by decide : (5 : Nat) ≠ 0), rfl, (by decide : 1 ≤ 8),
    (by decide : 8 ≤ 65534), (by decide : 1 ≤ 4294967295)⟩

/-- Frames without a sender: an ANSWER on a live path, an ANSWER on a QUENCHED one, an ACK; and a node with an entry that
has no link address on the path. -/
theorem test_meets_ReceptionChecksDecideInTheirOrder_stranger :
    (∃ f, formatCheck { head 9 7 1 with srcNode := 8 } (.answer 1 none 0) = some f ∧ ∃ o, f.body = .answer o none 0) ∧
      (∃ f, formatCheck { head 9 7 1 with srcNode := 8 } (.ack 0) = some f ∧ f.body = .ack 0) ∧
      ((station []).withPath .p0 (path .sound)).senderOn .p0 8 = none ∧
      ((station []).withPath .p0 (path .quenched)).senderOn .p0 8 = none ∧
      (((station []).withPath .p0 (path .sound)).path .p0).state.live = true ∧
      (((station []).withPath .p0 (path .quenched)).path .p0).state.live = false ∧
      (station []).senderOn .p2 9 = none ∧ (station []).senderOn .p1 9 = some 3 :=
  ⟨⟨_, rfl, _, rfl⟩, ⟨_, rfl, rfl⟩, rfl, rfl, rfl, rfl, rfl, rfl⟩

/-- An octet string with a right FCS and the station's addresses and type, whose data field is too short. -/
def shortFrame : List Byte :=
  [0x0A#8, 0#8, 0#8, 0#8, 0#8, 5#8, 0x0A#8, 0#8, 0#8, 0#8, 0#8, 9#8, 0x88#8, 0xB5#8]

theorem test_meets_ReceptionChecksDecideInTheirOrder_octets :
    etherDstOfOctets (shortFrame ++ fcsOf shortFrame) = portAddr .p0 (station []).stc.nodeId ∧
      fcsOk (shortFrame ++ fcsOf shortFrame) = true ∧
      typeOfOctets (shortFrame ++ fcsOf shortFrame) = (station []).stc.frameType ∧
      fieldsOfOctets (shortFrame ++ fcsOf shortFrame) = none := by decide +kernel

/-- An ANSWER frame to send, with its values at the ends of their ranges. -/
def answerFrame : TxFrame :=
  ⟨0x0A0000000009#48, 0x0A000000FFFE#48, 0xFFFF, 65534, 65535, some 255, some 0, 4294967295,
    .answer .voided (some 4294967295) 4294967295⟩

/-- A restart that stands pending while P0 sends a frame. -/
theorem test_meets_restarts_transmitting :
    ((restarting .warm ((station []).withPath .p0 { path .sound with tx := some answerFrame })).path .p0).tx ≠ none ∧
      ((restarting .cold ((station []).withPath .p0 { path .sound with tx := some answerFrame })).path .p0).tx ≠ none := by
  decide

theorem test_meets_ASentFrameReadsBackAsItself :
    answerFrame.etherType < 65536 ∧ 1 ≤ answerFrame.srcNode ∧ answerFrame.srcNode ≤ 65534 ∧
      answerFrame.dstNode < 65536 ∧ answerFrame.shift ≤ 4294967295 ∧
      answerFrame.srcHandle.isSome = srcHandlePresent answerFrame.body ∧
      answerFrame.dstHandle.isSome = dstHandlePresent answerFrame.body ∧ fcsOk answerFrame.octets = true := by
  decide +kernel

theorem test_meets_HearingAFrameAndEchoingAProbe :
    ((station []).path .p0).state.live = true ∧ (station []).peer 3 = some peer ∧
      (peer.links.get .p0).link = some 0x0A0000000009#48 ∧ (peer.links.get .p0).reach = .reachable ∧
      ({ (peer.links.get .p0) with reach := Reach.unknown }).reach ≠ .reachable ∧
      Reaches (station []) .p0 (head 0xFFFF 0xFFFF 0) 3 :=
  ⟨rfl, rfl, rfl, rfl, by decide, test_reaches_any [] 0xFFFF 0xFFFF 0 (by decide)⟩

/-- The station with P0 as given and its peer not REACHABLE there. -/
def unheardOn (r : PathRec) : State :=
  { (station []).withPath .p0 r with
    prt := { (station []).prt with
      peers := [(3, { peer with links := peer.links.set .p0 ⟨some 0x0A0000000009#48, .unreachable, 3, false, none⟩ })] } }

/-- P0 QUENCHED with its line DOWN and auto-revive: hearing the peer there revives it into DOWN. -/
def revivable : PathRec := { path .quenched with lineUp := false, autoRevive := true, cause := some .peerAll }

theorem test_meets_HearingAFrameAndEchoingAProbe_quenched :
    PassesChecks (unheardOn (path .quenched)) .p0 (head 0xFFFF 0xFFFF 0) ∧
      PassesChecks (unheardOn revivable) .p0 (head 0xFFFF 0xFFFF 0) ∧
      ((unheardOn (path .quenched)).path .p0).state = .quenched ∧
      (unheardOn (path .quenched)).senderOn .p0 9 = some 3 ∧ (unheardOn revivable).senderOn .p0 9 = some 3 ∧
      (∃ f, formatCheck (head 0xFFFF 0xFFFF 0) .probe = some f ∧ f.body = .probe) ∧
      (∃ f, formatCheck (head 0xFFFF 0xFFFF 0) .echo = some f ∧ f.body ≠ .probe) ∧
      (((unheardOn (path .quenched)).peer 3).map fun e => (e.links.get .p0).reach) = some .unreachable ∧
      ((hearPeer 3 .p0 (unheardOn (path .quenched))).path .p0).state = .quenched ∧
      ((hearPeer 3 .p0 (unheardOn revivable)).path .p0).state = .down ∧
      ((unheardOn (path .sound)).path .p0).state ≠ .quenched :=
  ⟨⟨rfl, rfl, (by decide : (0x88B5 : Nat) ≠ 0), rfl, (by decide : (5 : Nat) ≠ 0), rfl, (by decide : 1 ≤ 9),
      (by decide : 9 ≤ 65534), (by decide : 0 ≤ 4294967295)⟩,
    ⟨rfl, rfl, (by decide : (0x88B5 : Nat) ≠ 0), rfl, (by decide : (5 : Nat) ≠ 0), rfl, (by decide : 1 ≤ 9),
      (by decide : 9 ≤ 65534), (by decide : 0 ≤ 4294967295)⟩,
    rfl, rfl, rfl, ⟨_, rfl, rfl⟩, ⟨_, rfl, (by decide : FrameBody.echo ≠ .probe)⟩, by decide, by decide, by decide, by decide⟩

theorem test_run_probeQuenched :
    sent .p0 (after (.probeReceived .p0 (head 0xFFFF 0xFFFF 0)) (unheardOn (path .quenched))) = some .echo ∧
      sent .p0 (after (.probeReceived .p0 (head 0xFFFF 0xFFFF 0)) (unheardOn revivable)) = none := by decide

/-- A bound frame is taken against its record as it stands. -/
theorem test_againstBound {u : State} {p : Path} {k : Nat} {hd : RxHead} {c : Conv} (h : u.conv hd.dstHandle = some c)
    (b : BoundTo c k hd) : TakenAgainst u p k hd u c := ⟨h, b.2.2.1, b.2.2.2, .inl ⟨rfl, b⟩⟩

/-- A record that waits for its OPEN-REPLY. -/
def opening : Conv := { conv .opening none with peerHandle := none }

/-- That record as the acceptance of R8 on P0 leaves it. -/
def opened : Conv := { conv .carrying (some .p0) with peerHandle := some 9 }

theorem test_fromOpening :
    FromOpening (hearPeer 3 .p0 (demo opening)) .p0 3 (head 9 7 0)
      (acceptOpening 7 opening 9 .p0 (hearPeer 3 .p0 (demo opening))) :=
  ⟨opening, by decide, by decide, by decide, rfl⟩

/-- A frame to an OPENING record is taken against the record that R10 leaves: the hypothesis of the statements about DATA,
ACK, WAIT, INQUIRY, CLOSE and CLOSE-REPLY frames. -/
theorem test_againstOpening :
    TakenAgainst (hearPeer 3 .p0 (demo opening)) .p0 3 (head 9 7 0)
      (acceptOpening 7 opening 9 .p0 (hearPeer 3 .p0 (demo opening))) opened :=
  ⟨by decide, by decide, by decide, .inr test_fromOpening⟩

/-- The same after the credit of an ANSWER. -/
theorem test_againstOpening_answer :
    TakenAgainst (lowerScore .p0 (hearPeer 3 .p0 (demo opening))) .p0 3 (head 9 7 0)
      (acceptOpening 7 opening 9 .p0 (lowerScore .p0 (hearPeer 3 .p0 (demo opening)))) opened :=
  ⟨by decide, by decide, by decide, .inr ⟨opening, by decide, by decide, by decide, rfl⟩⟩

theorem test_meets_BoundDataIsCheckedAndAccepted :
    Reaches (demo { conv .parked none with inShift := 1, received := 4 }) .p0 (head 9 7 1) 3 ∧
      BothHandles (head 9 7 1) ∧ kindOfCode 1 = some .ordinary ∧ kindOfCode 2 = some .singleShot ∧
      TakenAgainst (hearPeer 3 .p0 (demo { conv .parked none with inShift := 1, received := 4 })) .p0 3 (head 9 7 1)
        (hearPeer 3 .p0 (demo { conv .parked none with inShift := 1, received := 4 }))
        { conv .parked none with inShift := 1, received := 4 } ∧
      (head 9 7 0).shift < 1 ∧ 1 ≤ (head 9 7 1).shift ∧ (List.replicate 512 0#8).length ≤ 512 ∧
      (hearPeer 3 .p0 (demo (conv .parked none))).dlq.entries.length < 64 ∧
      64 ≤ (hearPeer 3 .p0
        { demo (conv .parked none) with dlq := { entries := List.replicate 64 entry, tx := .none } }).dlq.entries.length ∧
      Reaches (demo opening) .p0 (head 9 7 0) 3 ∧ opened.inShift ≤ (head 9 7 0).shift ∧ 1 = opened.received + 1 :=
  ⟨test_reaches_any _ 9 7 1 (by decide), ⟨by decide, by decide⟩, rfl, rfl,
    test_againstBound rfl ⟨by decide, by decide, rfl, rfl⟩, by decide, by decide, by decide, by decide, by decide,
    test_reaches_any _ 9 7 0 (by decide), by decide, by decide⟩

theorem test_meets_BoundAckAndWaitSettle :
    Reaches (demo { conv .carrying (some .p0) with nextSeq := some 3, settled := 1 }) .p0 (head 9 7 1) 3 ∧
      BothHandles (head 9 7 1) ∧ BoundTo { conv .carrying (some .p0) with nextSeq := some 3, settled := 1 } 3 (head 9 7 1) ∧
      TakenAgainst (hearPeer 3 .p0 (demo { conv .carrying (some .p0) with nextSeq := some 3, settled := 1 })) .p0 3
        (head 9 7 1) (hearPeer 3 .p0 (demo { conv .carrying (some .p0) with nextSeq := some 3, settled := 1 }))
        { conv .carrying (some .p0) with nextSeq := some 3, settled := 1 } ∧
      (1 < 2 ∧ 2 ≤ ({ conv .carrying (some .p0) with nextSeq := some 3, settled := 1 }).highest) ∧
      (conv .carrying (some .p0)).state = .carrying ∧ (conv .parked none).state ≠ .carrying :=
  ⟨test_reaches_any _ 9 7 1 (by decide), ⟨by decide, by decide⟩, ⟨by decide, by decide, rfl, rfl⟩,
    test_againstBound rfl ⟨by decide, by decide, rfl, rfl⟩, by decide, rfl, by decide⟩

/-- A WAIT to a record that is not CARRYING, its tables in canonical form. -/
theorem test_meets_BoundAckAndWaitSettle_parked :
    TablesCanonical (demo (conv .parked none)) ∧ Reaches (demo (conv .parked none)) .p0 (head 9 7 0) 3 ∧
      BothHandles (head 9 7 0) ∧
      TakenAgainst (hearPeer 3 .p0 (demo (conv .parked none))) .p0 3 (head 9 7 0)
        (hearPeer 3 .p0 (demo (conv .parked none))) (conv .parked none) ∧ (conv .parked none).state ≠ .carrying :=
  ⟨⟨rfl, rfl⟩, test_reaches_any _ 9 7 0 (by decide), ⟨by decide, by decide⟩,
    test_againstBound rfl ⟨by decide, by decide, rfl, rfl⟩, by decide⟩

theorem test_run_waitToOpening :
    ((after (.waitReceived .p0 (head 9 7 0) 0) (demo opening)).conv 7) = some opened ∧
      ((after (.waitReceived .p0 (head 9 7 0) 0) (demo opened)).conv 7).map Conv.waitPause = some (some 100000) := by
  decide

theorem test_meets_SettlingAndVoidingChangeTheJournal :
    (demo (conv .parked none)).conv 7 = some (conv .parked none) ∧ (conv .parked none).state ≠ .carrying ∧
      hasSent (([jrec 1 .ordinary .sent, jrec 2 .ordinary .sent]).filter fun r => !r.covered 1 none) = true ∧
      ({ conv .carrying (some .p0) with ackTimer := .inquiry 3 1 5 }).ackTimer = .inquiry 3 1 5 ∧
      (conv .carrying (some .p0)).staged = none ∧ (conv .carrying (some .p0)).closeStage = .opened ∧
      (conv .carrying (some .p0)).settled < 1 := by decide

theorem test_meets_SettlingAndVoidingChangeTheJournal_general :
    (demo draining).conv 7 = some draining ∧ draining.settled < 1 ∧ (0 : Nat) ≤ draining.settled ∧
      ({ draining with ackTimer := .inquiry 3 1 5, staged := some [.p1] }).ackTimer = .inquiry 3 1 5 ∧
      (([jrec 1 .ordinary .sent]).filter fun r => !r.covered 1 none) = [] ∧
      (([jrec 1 .singleShot .sent]).filter fun r => !r.covered 1 (some 1)) = [jrec 1 .singleShot .sent] := by decide

theorem test_meets_BoundInquiryIsAnsweredByTheVoidTable :
    Reaches (demo (conv .parked none)) .p0 (head 9 7 1) 3 ∧ BothHandles (head 9 7 1) ∧
      TakenAgainst (hearPeer 3 .p0 (demo (conv .parked none))) .p0 3 (head 9 7 1)
        (hearPeer 3 .p0 (demo (conv .parked none))) (conv .parked none) ∧
      (demo (conv .parked none)).peer 3 = some peer ∧ (demo opening).peer 3 = some peer ∧
      (peer.links.get .p0).link = some 0x0A0000000009#48 ∧
      ((hearPeer 3 .p0 (demo (conv .parked none))).path .p0).class1.length < 32 ∧
      32 ≤ (List.replicate 32 openFrame).length ∧
      voidDecision (some 4) 4 4 = (.ordinary, 4, 4) ∧ voidDecision (some 5) 5 4 = (.inDelivery, 5, 4) ∧
      voidDecision (some 5) 4 4 = (.voided, 5, 5) ∧ voidDecision (some 5) 4 3 = (.inDelivery, 4, 3) ∧
      voidDecision (some 6) 4 4 = (.notKnown, 4, 4) :=
  ⟨test_reaches_any _ 9 7 1 (by decide), ⟨by decide, by decide⟩,
    test_againstBound rfl ⟨by decide, by decide, rfl, rfl⟩, rfl, rfl, rfl, by decide, by decide, rfl, rfl, rfl, rfl, rfl⟩

theorem test_run_notKnownAnswer_queued :
    ((takeInquiry 7 .p0 1 (some 6) (demo { conv .parked none with received := 4, delivered := 4 })).path .p0).class1.map
      QFrame.body = [.answer .notKnown (some 6) 4] := by decide

theorem test_run_notKnownAnswer :
    sent .p0 (after (.inquiryReceived .p0 (head 9 7 1) (some 6))
      (demo { conv .parked none with received := 4, delivered := 4 })) =
      some (.answer .notKnown (some 6) 4) := by decide

theorem test_run_notKnownAnswer_unbound :
    sent .p0 (after (.inquiryReceived .p0 (head 9 7 1) (some 6)) (demo (conv .lapsed none))) =
      some (.answer .notKnown (some 6) 0) := by decide

/-- A slot of conversation 7 that inquires on P0 for the first time. -/
def slot : Slot := ⟨7, .inquiring, 2, some .p0, [], some 1, none, some 5⟩

/-- The station with conversation 7 as given and that slot in number 0. -/
def shifting (c : Conv) (sl : Slot) : State := { demo c with she := { queue := [], slots := [(0, sl)] } }

theorem test_meets_BoundAnswersAreMatchedBeforeTheyAct :
    Reaches (demo { conv .carrying (some .p0) with ackTimer := .inquiry 1 1 5, nextSeq := some 2 }) .p0 (head 9 7 1) 3 ∧
      BothHandles (head 9 7 1) ∧ outcomeOfCode 4 = some .notKnown ∧ outcomeOfCode 3 = some .voided ∧
      TakenAgainst (lowerScore .p0 (hearPeer 3 .p0
          (demo { conv .carrying (some .p0) with ackTimer := .inquiry 1 1 5, nextSeq := some 2 }))) .p0 3 (head 9 7 1)
        (lowerScore .p0 (hearPeer 3 .p0
          (demo { conv .carrying (some .p0) with ackTimer := .inquiry 1 1 5, nextSeq := some 2 })))
        { conv .carrying (some .p0) with ackTimer := .inquiry 1 1 5, nextSeq := some 2 } ∧
      (head 9 7 1).shift = (conv .carrying (some .p0)).sendShift ∧
      1 ≤ ({ conv .carrying (some .p0) with nextSeq := some 2 }).highest ∧
      (lowerScore .p0 (hearPeer 3 .p0 (shifting (conv .shifting none) slot))).slotOf 7 = some (0, slot) ∧
      (slot.phase = .inquiring ∧ slot.candidate = some .p0 ∧ (head 9 7 2).shift = slot.newShift ∧
        0 ≤ (conv .shifting none).highest) ∧
      (lowerScore .p0 (hearPeer 3 .p0 (demo (conv .shifting none)))).slotOf 7 = none ∧
      (conv .parked none).state ≠ .carrying ∧ (conv .parked none).state ≠ .shifting :=
  ⟨test_reaches_any _ 9 7 1 (by decide), ⟨by decide, by decide⟩, rfl, rfl,
    test_againstBound rfl ⟨by decide, by decide, rfl, rfl⟩, rfl, by decide, rfl,
    ⟨rfl, rfl, rfl, Nat.zero_le _⟩, rfl, by decide, by decide⟩

theorem test_meets_AShiftAnswerCarriesTheConversation :
    (shifting (conv .shifting none) slot).conv 7 = some (conv .shifting none) ∧ (conv .shifting none).staged = none ∧
      (conv .shifting none).closeStage = .opened ∧ (shifting (conv .shifting none) slot).she.queue = [] ∧
      slot.void = none := by decide

/-- A slot of conversation 7 that inquires about the single-shot record 1. -/
def voidSlot : Slot := { slot with void := some 1 }

theorem test_meets_AShiftAnswerCarriesTheConversation_void :
    (shifting { conv .shifting none with journal := [jrec 1 .singleShot .sent] } voidSlot).conv 7 =
        some { conv .shifting none with journal := [jrec 1 .singleShot .sent] } ∧
      voidSlot.void = some 1 ∧ (∃ r ∈ [jrec 1 .singleShot .sent], r.status = .sent ∧ r.seq = 1) ∧
      (∀ r ∈ [jrec 2 .ordinary .sent], r.seq = 1 → r.status ≠ .sent) ∧ (conv .shifting none).settled < 1 ∧
      ((applyShiftAnswer 7 0 voidSlot .p0 .voided 0
        (shifting { conv .shifting none with journal := [jrec 1 .singleShot .sent] } voidSlot)).conv 7).map Conv.journal =
          some [jrec 1 .singleShot .returned] := by decide

theorem test_meets_AnOpenIsRepeatedRefusedOrAdmitted :
    Reaches (station []) .p0 (head 9 0xFFFF 0) 3 ∧ (hearPeer 3 .p0 (station [])).peer 3 ≠ none ∧
      ((hearPeer 3 .p0 (station [])).path .p0).class1.length < 32 ∧
      (hearPeer 3 .p0 (demo { conv .parked none with role := .acceptor })).handles.find?
        ((hearPeer 3 .p0 (demo { conv .parked none with role := .acceptor })).isRepeat 3 9) = some 7 ∧
      (hearPeer 3 .p0 (station [])).handles.find? ((hearPeer 3 .p0 (station [])).isRepeat 3 9) = none ∧
      (hearPeer 3 .p0 (station [])).lowestVacant = some 0 ∧ peer.admission = true :=
  ⟨test_reaches_any _ 9 0xFFFF 0 (by decide), by decide, by decide, by decide, by decide, by decide, by decide⟩

/-- The station with class 1 of P0 full. -/
def fullClass1 (convs : KMap Conv) : State :=
  (station convs).withPath .p0 { path .sound with class1 := List.replicate 32 openFrame }

theorem test_meets_AnOpenIsRepeatedRefusedOrAdmitted_full :
    Reaches (fullClass1 []) .p0 (head 9 0xFFFF 0) 3 ∧ 32 ≤ ((hearPeer 3 .p0 (fullClass1 [])).path .p0).class1.length ∧
      (hearPeer 3 .p0 (fullClass1 [])).handles.find? ((hearPeer 3 .p0 (fullClass1 [])).isRepeat 3 9) = none ∧
      ({ peer with admission := false }).admission = false ∧
      (fullClass1 [(7, { conv .parked none with role := .acceptor })]).handles.find?
        ((fullClass1 [(7, { conv .parked none with role := .acceptor })]).isRepeat 3 9) = some 7 :=
  ⟨⟨⟨rfl, rfl, (by decide : (0x88B5 : Nat) ≠ 0), rfl, (by decide : (5 : Nat) ≠ 0), rfl, (by decide : 1 ≤ 9),
      (by decide : 9 ≤ 65534), by decide⟩, rfl, rfl⟩, by decide, by decide, rfl, by decide⟩

theorem test_meets_AnOpenIsRepeatedRefusedOrAdmitted_displaced :
    (demo (conv .parked none)).she.queue = [] ∧ (demo (conv .parked none)).conv 7 = some (conv .parked none) ∧
      (conv .parked none).peer = 3 ∧ (conv .parked none).peerHandle = some 9 ∧ (7 : Nat) ≠ 0 ∧
      (hearPeer 3 .p0 (demo (conv .parked none))).handles.find?
        ((hearPeer 3 .p0 (demo (conv .parked none))).isRepeat 3 9) = none ∧
      (hearPeer 3 .p0 (demo (conv .parked none))).lowestVacant = some 0 ∧
      ((after (.openReceived .p0 (head 9 0xFFFF 0)) (demo (conv .parked none))).conv 7).map Conv.lapseReason =
        some (some .notKnown) := by decide

theorem test_meets_AnOpenReplyEndsTheOpening :
    Reaches (demo { conv .opening none with peerHandle := none }) .p0 (head 9 7 0) 3 ∧
      Reaches (demo { conv .opening none with peerHandle := none }) .p0 (head 0xFFFF 7 0) 3 ∧
      (hearPeer 3 .p0 (demo { conv .opening none with peerHandle := none })).conv 7 =
        some { conv .opening none with peerHandle := none } ∧
      BoundTo (conv .parked none) 3 (head 9 7 0) :=
  ⟨test_reaches_any _ 9 7 0 (by decide), test_reaches_any _ 0xFFFF 7 0 (by decide), rfl,
    ⟨by decide, by decide, rfl, rfl⟩⟩

theorem test_meets_AnOpenReplyEndsTheOpening_unbound :
    (∀ c, (hearPeer 3 .p0 (station [])).conv 7 = some c → c.state ≠ .opening ∨ c.peer ≠ 3) ∧
      Unbound (hearPeer 3 .p0 (station [])) 3 (head 9 7 0) ∧
      (hearPeer 3 .p0 (station [])).peer 3 ≠ none ∧ (peer.links.get .p0).link = some 0x0A0000000009#48 ∧
      ((hearPeer 3 .p0 (station [])).path .p0).state.inService = true ∧
      ((hearPeer 3 .p0 (station [])).path .p0).class2.length < 64 ∧
      ¬ (List.replicate 64 openFrame).length < 64 ∧ (path .proving).state.inService = false :=
  ⟨(fun c h => nomatch (show none = some c from h)), (fun c h => nomatch (show none = some c from h)), by decide, rfl,
    by decide, by decide, by decide, rfl⟩

theorem test_meets_AnOpenReplyEndsTheOpening_accepted :
    (displace 3 9 7 (demo opening)).conv 7 = some opening ∧ (displace 3 9 7 (demo opening)).usable 3 .p0 = true ∧
      Path.p0 ∈ opening.prefs ∧ (displace 3 9 7 (demo opening)).usable 3 .p3 = false ∧ Path.p3 ∉ opening.prefs ∧
      (displace 3 9 7 (station [(2, conv .parked none), (7, opening)])).conv 7 = some opening := by decide

theorem test_meets_ABoundCloseIsAnsweredWhenAllIsDelivered :
    Reaches (demo (conv .parked none)) .p0 (head 9 7 0) 3 ∧ BothHandles (head 9 7 0) ∧
      TakenAgainst (hearPeer 3 .p0 (demo (conv .parked none))) .p0 3 (head 9 7 0)
        (hearPeer 3 .p0 (demo (conv .parked none))) (conv .parked none) ∧
      (conv .parked none).delivered = 0 ∧ (1 : Nat) ≠ (conv .parked none).delivered ∧
      (conv .parked none).farClosed = false ∧ ({ conv .parked none with farClosed := true }).farClosed = true ∧
      (hearPeer 3 .p0 (demo (conv .parked none))).peer 3 ≠ none ∧
      ((hearPeer 3 .p0 (demo (conv .parked none))).path .p0).class1.length < 32 :=
  ⟨test_reaches_any _ 9 7 0 (by decide), ⟨by decide, by decide⟩,
    test_againstBound rfl ⟨by decide, by decide, rfl, rfl⟩, rfl, by decide, rfl, rfl, by decide, by decide⟩

theorem test_meets_CloseRepliesCloseOutAndAbandonsLapse :
    Reaches (demo { conv .carrying (some .p0) with closeStage := .closeSent }) .p0 (head 9 7 0) 3 ∧
      BothHandles (head 9 7 0) ∧ BoundTo { conv .carrying (some .p0) with closeStage := .closeSent } 3 (head 9 7 0) ∧
      TakenAgainst (hearPeer 3 .p0 (demo { conv .carrying (some .p0) with closeStage := .closeSent })) .p0 3
        (head 9 7 0) (hearPeer 3 .p0 (demo { conv .carrying (some .p0) with closeStage := .closeSent }))
        { conv .carrying (some .p0) with closeStage := .closeSent } ∧
      0 = (conv .carrying (some .p0)).highest ∧ hasSent draining.journal = false ∧
      hasWaiting draining.journal = false ∧ opened.closeStage = .opened ∧ opening.peerHandle = none :=
  ⟨test_reaches_any _ 9 7 0 (by decide), ⟨by decide, by decide⟩, ⟨by decide, by decide, rfl, rfl⟩,
    test_againstBound rfl ⟨by decide, by decide, rfl, rfl⟩, rfl, rfl, rfl, rfl, rfl⟩

/-- A record that refuses the binding of R2 leaves a frame of it unbound. -/
theorem test_unbound {u : State} {k : Nat} {hd : RxHead} {c : Conv} (h : u.conv hd.dstHandle = some c)
    (hc : c.state = .lapsed ∨ c.peer ≠ k ∨ (c.state ≠ .opening ∧ c.peerHandle ≠ some hd.srcHandle)) :
    Unbound u k hd := by
  intro d hd'
  rw [h] at hd'
  cases hd'
  exact hc

theorem test_meets_UnboundFramesAreAnsweredWithoutARecord :
    Reaches (demo (conv .lapsed none)) .p0 (head 9 7 0) 3 ∧ BothHandles (head 9 7 0) ∧
      Unbound (hearPeer 3 .p0 (demo (conv .lapsed none))) 3 (head 9 7 0) ∧
      Unbound (hearPeer 3 .p0 (demo (conv .parked none))) 3 (head 8 7 0) ∧
      Unbound (hearPeer 3 .p0 (demo { conv .parked none with peer := 4 })) 3 (head 9 7 0) ∧
      Unbound (lowerScore .p0 (hearPeer 3 .p0 (demo (conv .lapsed none)))) 3 (head 9 7 0) ∧
      (hearPeer 3 .p0 (demo (conv .lapsed none))).peer 3 ≠ none ∧
      ((hearPeer 3 .p0 (demo (conv .lapsed none))).path .p0).class1.length < 32 ∧
      outcomeOfCode 4 = some .notKnown :=
  ⟨test_reaches_any _ 9 7 0 (by decide), ⟨by decide, by decide⟩, test_unbound (c := conv .lapsed none) rfl (by decide),
    test_unbound (c := conv .parked none) rfl (by decide),
    test_unbound (c := { conv .parked none with peer := 4 }) rfl (by decide),
    test_unbound (c := conv .lapsed none) rfl (by decide), by decide, by decide, rfl⟩

theorem test_meets_UnboundFramesAreAnsweredWithoutARecord_full :
    Reaches (fullClass1 []) .p0 (head 9 7 0) 3 ∧ Unbound (hearPeer 3 .p0 (fullClass1 [])) 3 (head 9 7 0) ∧
      ¬ ((hearPeer 3 .p0 (fullClass1 [])).path .p0).class1.length < 32 :=
  ⟨⟨⟨rfl, rfl, (by decide : (0x88B5 : Nat) ≠ 0), rfl, (by decide : (5 : Nat) ≠ 0), rfl, (by decide : 1 ≤ 9),
      (by decide : 9 ≤ 65534), by decide⟩, rfl, rfl⟩, (fun c h => nomatch (show none = some c from h)), by decide⟩

theorem test_meets_SamplesRunTheQualifiers :
    (station []).inReset = false ∧ (station []).path .p0 = path .sound ∧ true = (path .sound).lineUp ∧
      false ≠ (path .sound).lineUp ∧ (path .sound).lineRun + 1 < 4 ∧
      4 ≤ ({ path .sound with lineRun := 3 }).lineRun + 1 ∧
      1 ≤ ({ path .sound with lineFilter := false }).lineRun + 1 ∧ true ≠ (path .sound).alarm ∧
      4 ≤ ({ path .sound with alarmRun := 3, sources := [.plane] }).alarmRun + 1 ∧
      QuenchSource.plane ∉ (path .sound).sources ∧ (path .sound).state.live = true ∧
      (path .down).state.live = false := by decide

theorem test_meets_AQualifiedLineTransitionMovesThePath :
    ((station []).path .p3).state = .down ∧ ((station []).path .p3).alarm = false ∧
      QuenchSource.companion ∉ ((station []).path .p3).sources ∧ ((station []).path .p0).state.live = true ∧
      ((station []).path .p0).state ≠ .down ∧ ((station []).path .p3).state.live = false := by decide

/-- A DOWN path with an enabled ACTIVE alarm, and one whose enabled companion P1 is QUENCHED. -/
theorem test_meets_AQualifiedLineTransitionMovesThePath_quenched :
    ((lineQualified .p3 true ((station []).withPath .p3
      { path .down with sources := [.plane, .companion], alarm := true })).path .p3).cause = some .plane ∧
      ((lineQualified .p3 true (((station []).withPath .p1 (path .quenched)).withPath .p3
        { path .down with sources := [.plane, .companion], companions := [.p1] })).path .p3).cause = some .companion ∧
      ((lineQualified .p3 true ((station []).withPath .p3
        { path .down with sources := [.plane, .companion], companions := [.p1] })).path .p3).state = .proving := by decide

/-- DOWN from PROVING, and from SOUND with a conversation on the path. -/
theorem test_meets_AQualifiedLineTransitionMovesThePath_down :
    (path .proving).state.live = true ∧ (path .sound).state.inService = true ∧
      ((lineQualified .p0 false ((station []).withPath .p0 (path .proving))).path .p0).state = .down ∧
      Reason.falseRevival ∈
        (lineQualified .p0 false ((station []).withPath .p0 (path .proving))).ntu.paths.get .p0 ∧
      ((lineQualified .p0 false (demo (conv .carrying (some .p0)))).conv 7).map Conv.active ≠ some (some .p0) := by decide

theorem test_meets_PathTimersSettleAndProbe :
    (station []).inReset = false ∧ ({ path .proving with settleTimer := some 5 }).settleTimer = some 5 ∧
      (station []).peer 3 = some peer ∧ (peer.links.get .p0).reach = .reachable ∧
      (peer.links.get .p3).reach ≠ .reachable ∧ (station []).prt.rounds.get .p0 = some 100000 ∧
      (station []).prt.peers.wf = true ∧ ((station []).path .p3).settleTimer = none ∧
      (station []).prt.rounds.get .p3 = none := by decide

theorem test_meets_PathTimersSettleAndProbe_round :
    (station []).peer 4 = none ∧ (station []).peer 3 = some peer ∧
      (peer.links.get .p0).link = some 0x0A0000000009#48 ∧
      ((beginRound .p0 (station [])).path .p0).class3 =
        [answerTo peer 0x0A0000000009#48 none none 0 .probe none] := by decide

/-- A round in which no entry was heard, with the miss below the limit, at it, and of an entry already UNREACHABLE. -/
theorem test_meets_PathTimersSettleAndProbe_close :
    TablesCanonical (unheardOn (path .sound)) ∧ (unheardOn (path .sound)).prt.rounds.get .p0 = some 100000 ∧
      ((closeRound .p0 (unheardOn (path .sound))).path .p0).score = 8 ∧
      ((closeRound .p0 (station [])).path .p0).score = 0 ∧
      ((missRound .p0 3 (station [])).peer 3).map (fun e => (e.links.get .p0).miss) = some 1 ∧
      ((missRound .p0 3 (station [])).peer 3).map (fun e => (e.links.get .p0).reach) = some .reachable ∧
      ((missRound .p0 3 ((station []).withPath .p0 { path .sound with missLimit := 1 })).peer 3).map
        (fun e => (e.links.get .p0).reach) = some .unreachable ∧
      ((missRound .p0 3 (unheardOn (path .sound))).peer 3).map (fun e => (e.links.get .p0).miss) = some 4 :=
  ⟨⟨rfl, rfl⟩, rfl, by decide, by decide, by decide, by decide, by decide, by decide⟩

theorem test_meets_TheTransmitterFreesAndBeginsFrames :
    ({ path .sound with tx := some txFrame }).tx = some txFrame ∧ (path .sound).flush = false ∧
      ({ path .sound with tx := some txFrame, flush := true }).flush = true ∧ (path .sound).tx = none ∧
      (station []).stc.nodeId ≠ 0 ∧ (station []).stc.frameType ≠ 0 ∧ State.reset.stc.nodeId = 0 ∧
      (path .sound).state.inService = true ∧ (path .quenched).state.inService = false ∧ (path .sound).queued = [] ∧
      (station []).dataTurn .p0 = none ∧
      (demo { conv .carrying (some .p0) with journal := [jrec 1 .ordinary .waiting] }).dataTurn .p0 = some 7 ∧
      (demo { conv .carrying (some .p0) with journal := [jrec 1 .ordinary .waiting] }).offer .p0 7 =
        some ({ conv .carrying (some .p0) with journal := [jrec 1 .ordinary .waiting] }, jrec 1 .ordinary .waiting) := by
  decide

/-- The single-shot barrier, the WAIT pause, and the turn that wraps behind the rotation point. -/
theorem test_meets_TheTransmitterFreesAndBeginsFrames_turn :
    sendable.transmittable = some ⟨1, .ordinary, 1, 1, .waiting, none⟩ ∧
      ({ sendable with waitPause := some 5 }).transmittable = none ∧
      ({ sendable with journal := [jrec 1 .singleShot .sent, jrec 2 .ordinary .waiting] }).transmittable = none ∧
      ({ sendable with journal := [jrec 1 .ordinary .sent, jrec 2 .ordinary .waiting] }).transmittable =
        some (jrec 2 .ordinary .waiting) ∧
      ({ sendable with journal := [jrec 1 .ordinary .sent, jrec 2 .singleShot .waiting] }).transmittable = none ∧
      ({ sendable with journal := [jrec 2 .singleShot .waiting, jrec 3 .ordinary .waiting] }).transmittable =
        some (jrec 2 .singleShot .waiting) ∧
      TablesCanonical (station [(2, sendable), (7, sendable)]) ∧
      ((station [(2, sendable), (7, sendable)]).withPath .p0 { path .sound with rotation := 2 }).dataTurn .p0 = some 7 ∧
      ((station [(2, sendable), (7, sendable)]).withPath .p0 { path .sound with rotation := 7 }).dataTurn .p0 = some 2 ∧
      (station []).dataTurn .p0 = none :=
  ⟨by decide, by decide, by decide, by decide, by decide, by decide, ⟨rfl, rfl⟩, by decide, by decide, by decide⟩

/-- A conversation whose ack timer runs with one record SENT. -/
def waitingForAck (k : RecKind) (count : Nat) (t : AckTimer) : Conv :=
  { conv .carrying (some .p0) with journal := [jrec 1 k .sent], retryCount := count, ackTimer := t }

theorem test_meets_AckInquiryAndPauseExpiries :
    (demo (waitingForAck .ordinary 1 (.ackWait 5))).inReset = false ∧
      (demo (waitingForAck .ordinary 1 (.ackWait 5))).conv 7 = some (waitingForAck .ordinary 1 (.ackWait 5)) ∧
      (waitingForAck .ordinary 2 (.ackWait 5)).retryLimit ≤ 2 ∧ 1 < (waitingForAck .ordinary 1 (.ackWait 5)).retryLimit ∧
      (addScore .p0 16 ((demo (waitingForAck .ordinary 1 (.ackWait 5))).atTime 5)).conv 7 =
        some (waitingForAck .ordinary 1 (.ackWait 5)) ∧
      oldestSent (waitingForAck .ordinary 1 (.ackWait 5)).journal = some (jrec 1 .ordinary .sent) ∧
      oldestSent (waitingForAck .singleShot 1 (.ackWait 5)).journal = some (jrec 1 .singleShot .sent) ∧
      (addScore .p0 16 ((demo (waitingForAck .singleShot 1 (.inquiry 2 1 5))).atTime 5)).conv 7 =
        some (waitingForAck .singleShot 1 (.inquiry 2 1 5)) ∧
      ({ conv .carrying (some .p0) with waitPause := some 5 }).waitPause = some 5 := by decide

theorem test_meets_AckInquiryAndPauseExpiries_inquiry :
    (station []).linkOn 4 .p0 = none ∧ (station []).peer 3 = some peer ∧
      (peer.links.get .p0).link = some 0x0A0000000009#48 ∧ openFrame ∈ [openFrame] ∧ openFrame ∉ ([] : List QFrame) ∧
      64 ≤ (List.replicate 64 openFrame).length ∧
      sent .p0 (after (.ackTimerExpiry 7) (demo (waitingForAck .singleShot 1 (.ackWait 5)))) =
        some (.inquiry (some 1)) := by decide

theorem test_meets_AckInquiryAndPauseExpiries_third :
    (waitingForAck .singleShot 1 (.inquiry 3 1 5)).ackTimer = .inquiry 3 1 5 ∧
      (addScore .p0 16 ((demo (waitingForAck .singleShot 1 (.inquiry 3 1 5))).atTime 5)).conv 7 =
        some (waitingForAck .singleShot 1 (.inquiry 3 1 5)) ∧
      ((after (.inquiryTimerExpiry 7) (demo (waitingForAck .singleShot 1 (.inquiry 3 1 5)))).conv 7).map Conv.state =
        some .shifting := by decide

theorem test_meets_AckInquiryAndPauseExpiries_quenched :
    ((addScore .p0 16
      (((demo (waitingForAck .ordinary 1 (.ackWait 5))).withPath .p0 { path .sound with score := 239 }).atTime 5)).conv
        7).map Conv.active = some none := by decide

theorem test_meets_OpenAndCloseTimersRepeatTheirFrames :
    (demo { conv .opening none with openTimer := some 5, openAttempt := some (.p0, 1) }).usable 3 .p0 = true ∧
      (pathsAfter [.p0, .p1] .p0).find? ((station []).usable 3) = some .p1 ∧
      (pathsAfter [.p0, .p1] .p1).find? ((station []).usable 3) = none ∧ (station []).peer 3 = some peer ∧
      (peer.links.get .p0).link = some 0x0A0000000009#48 ∧ ((station []).path .p0).class2 = [] ∧
      (addScore .p0 16 ((demo { conv .carrying (some .p0) with closeTimer := some 5 }).atTime 5)).conv 7 =
        some { conv .carrying (some .p0) with closeTimer := some 5 } ∧
      0 < (conv .carrying (some .p0)).retryLimit ∧
      ({ conv .carrying (some .p0) with retryCount := 2 }).retryLimit ≤ 2 := by decide

theorem test_run_pathsAfter : pathsAfter [.p2, .p0, .p1] .p2 = [.p0, .p1] ∧ pathsAfter [.p2, .p0] .p0 = [] ∧
    oldestSent [jrec 1 .ordinary .returned, jrec 2 .ordinary .sent, jrec 3 .ordinary .sent] =
      some (jrec 2 .ordinary .sent) := by decide

theorem test_meets_OpenAndCloseTimersRepeatTheirFrames_close :
    64 ≤ (List.replicate 64 openFrame).length ∧ openFrame ∈ [openFrame] ∧ openFrame ∉ ([] : List QFrame) ∧
      ((addScore .p0 16
        (((demo { conv .carrying (some .p0) with closeTimer := some 5 }).withPath .p0
          { path .sound with score := 239 }).atTime 5)).conv 7).map Conv.active = some none := by decide

theorem test_meets_HoldAndParkExpiries :
    (demo { conv .withheld none with hold := some 5 }).conv 7 = some { conv .withheld none with hold := some 5 } ∧
      (conv .parked none).state ≠ .withheld ∧
      ({ conv .parked none with parkStart := some 5 }).parkStart = some 5 ∧ (station []).stc.parkLimit = 0 ∧
      ({ (station []).stc with parkLimit := 1 }).parkLimit ≠ 0 := by decide

theorem test_meets_SlotTimersChooseAndInquire :
    (shifting (conv .shifting none) slot).slot 0 = some slot ∧
      (shifting (conv .shifting none) slot).conv slot.handle = some (conv .shifting none) ∧
      (shifting (conv .shifting none) slot).candidate (conv .shifting none) [] = some .p0 ∧
      (shifting (conv .shifting none) slot).candidate (conv .shifting none) [.p0] = some .p1 ∧
      (shifting (conv .shifting none) slot).candidate { conv .shifting none with forced := some .p1 } [] = some .p1 ∧
      (shifting (conv .shifting none) slot).candidate (conv .shifting none) [.p0, .p1] = none ∧
      (addScore .p0 16 ((shifting (conv .shifting none) slot).atTime 5)).slot 0 = some slot ∧
      (addScore .p0 16 ((shifting (conv .shifting none) slot).atTime 5)).conv 7 = some (conv .shifting none) ∧
      (addScore .p0 16 (((shifting (conv .shifting none) slot).withPath .p0 { path .sound with score := 239 }).atTime
        5)).slot 0 ≠ some slot := by decide

theorem test_meets_SlotTimersChooseAndInquire_third :
    (addScore .p0 16 ((shifting (conv .shifting none) { slot with attempt := some 3 }).atTime 5)).slot 0 =
        some { slot with attempt := some 3 } ∧
      (peer.links.get .p0).link ≠ none ∧ (peer.links.get .p0).reach ≠ .unreachable ∧
      (silent.links.get .p0).reach = .unreachable ∧
      (shifting (conv .shifting none) slot).slotOn .p0 (some 3) 0 = true ∧
      (shifting (conv .shifting none) slot).slotOn .p0 (some 4) 0 = false ∧
      ((after (.slotInquiryExpiry 0) (shifting (conv .shifting none) { slot with attempt := some 3 })).slot 0).map
        Slot.candidate = some (some .p1) ∧
      ((after (.slotInquiryExpiry 0) (shifting (conv .shifting none) { slot with attempt := some 3 })).reachOn 3 .p0) =
        .unreachable ∧
      (station []).candidate { conv .shifting none with prefs := [.p1, .p0] } [] = some .p0 ∧
      ((station []).withPath .p1 (path .sound)).candidate { conv .shifting none with prefs := [.p1, .p0] } [] =
        some .p1 := by decide

theorem test_meets_AScoreEventIsClampedAndCompared :
    ((station []).path .p3).state.live = false ∧ ((station []).path .p0).state.live = true ∧
      ((station []).path .p0).score + 254 < 255 ∧ ((station []).path .p0).score - 1 < 255 := by decide

theorem test_meets_AScoreEventIsClampedAndCompared_thresholds :
    ((addScore .p0 1 ((station []).withPath .p0 { path .sound with score := 127 })).path .p0).state = .suspect ∧
      ((addScore .p0 1 ((station []).withPath .p0 { path .sound with score := 126 })).path .p0).state = .sound ∧
      ((lowerScore .p1 ((station []).withPath .p1 { path .suspect with score := 96 })).path .p1).state = .sound ∧
      ((lowerScore .p1 ((station []).withPath .p1 { path .suspect with score := 97 })).path .p1).state = .suspect ∧
      min 255 (({ path .suspect with score := 239 }).score + 16) = 255 ∧
      ((addScore .p1 16 ((station []).withPath .p1 { path .suspect with score := 239 })).path .p1).cause = some .score ∧
      ((addScore .p1 16 ((station []).withPath .p1 { path .suspect with score := 255 })).path .p1).state = .suspect ∧
      QuenchSource.score ∈ (path .suspect).sources ∧
      QuenchSource.score ∉ ({ path .suspect with sources := [] }).sources := by decide

theorem test_meets_CausesAndCuesMoveConversations :
    (demo (conv .parked none)).conv 7 = some (conv .parked none) ∧ (conv .parked none).state ≠ .carrying ∧
      (conv .carrying (some .p0)).state ≠ .parked ∧
      ({ conv .carrying (some .p0) with hold := some 5 }).hold ≠ none ∧ (conv .carrying (some .p0)).hold = none ∧
      ({ demo (conv .parked none) with
        she := { queue := [], slots := (List.range 8).map fun k => (k, slot) } }).freeSlotNo = none := by decide

/-- The cue of a path reaches a PARKED conversation that lists it and can use it, of the peer or of all. -/
theorem test_meets_CausesAndCuesMoveConversations_cued :
    (demo (conv .parked none)).cueable (some 3) .p0 7 = true ∧ (demo (conv .parked none)).cueable none .p1 7 = true ∧
      (demo (conv .parked none)).cueable (some 4) .p0 7 = false ∧ (demo (conv .parked none)).cueable none .p2 7 = false ∧
      (demo (conv .carrying (some .p1))).cueable none .p0 7 = false ∧ TablesCanonical (demo (conv .parked none)) ∧
      (demo (conv .parked none)).freeSlotNo = some 0 ∧
      (shifting (conv .parked none) slot).freeSlotNo = some 1 ∧ (shifting (conv .parked none) slot).slotOf 7 =
        some (0, slot) :=
  ⟨by decide, by decide, by decide, by decide, by decide, ⟨rfl, rfl⟩, by decide, by decide, by decide⟩

theorem test_meets_CausesAndCuesMoveConversations_general :
    (demo (waitingForAck .singleShot 0 .stopped)).conv 7 = some (waitingForAck .singleShot 0 .stopped) ∧
      (sentSingle (waitingForAck .singleShot 0 .stopped).journal).isSome = true ∧
      (sentSingle (conv .carrying (some .p0)).journal).isSome = false ∧ (conv .parked none).hold = none ∧
      ((demo (conv .carrying (some .p0))).handles.filter fun h =>
        ((demo (conv .carrying (some .p0))).conv h).any fun c => decide (c.active = some .p0)) = [7] ∧
      (answerTo peer 0x0A0000000009#48 (some 7) (some 9) 0 (.ack 0) (some 7)).owner = some 7 ∧
      ((station []).path .p0).class4 = [] := by decide

theorem test_meets_AGrantBeginsAShift :
    ({ demo (conv .shiftQueued none) with she := { queue := [⟨7, .ordinary⟩], slots := [] } }).freeSlotNo = some 0 ∧
      ({ demo (conv .shiftQueued none) with
        she := { queue := [⟨7, .ordinary⟩], slots := (List.range 7).map fun k => (k, slot) } }).freeSlotNo = some 7 ∧
      (conv .shiftQueued none).sendShift ≠ 4294967295 ∧ (conv .shiftQueued none).holdOff ≠ 0 ∧
      ({ conv .shiftQueued none with sendShift := 4294967295 }).state ≠ .lapsed := by decide

theorem test_meets_AGrantBeginsAShift_general :
    ({ demo (conv .shiftQueued none) with
        she := { queue := [⟨7, .commitFirst⟩, ⟨8, .ordinary⟩], slots := [] } }).she.queue =
        ⟨7, .commitFirst⟩ :: [⟨8, .ordinary⟩] ∧
      ({ conv .shiftQueued none with holdOff := 0 }).holdOff = 0 ∧
      (demo { conv .shifting none with holdOff := 0 }).candidate { conv .shifting none with holdOff := 0 } [] =
        some .p0 ∧
      (demo (conv .shifting none)).candidate { conv .shifting none with prefs := [.p3] } [] = none ∧
      ({ conv .shiftQueued none with staged := some [.p1] }).staged ≠ none := by decide

theorem test_meets_LapsingAndBecomingVacant :
    (demo (conv .parked none)).conv 7 = some (conv .parked none) ∧ (demo (conv .parked none)).she.queue = [] ∧
      (conv .lapsed none).state = .lapsed ∧ (conv .parked none).state ≠ .lapsed ∧
      (demo (conv .parked none)).dlq.entries = [] ∧
      (vacate 7 { demo (conv .parked none) with
        dlq := { entries := [⟨7, 1, .ordinary, 1, [0#8]⟩, ⟨8, 1, .ordinary, 1, [0#8]⟩], tx := .head } }).dlq =
        { entries := [⟨8, 1, .ordinary, 1, [0#8]⟩], tx := .orphaned } := by decide

theorem test_meets_AcknowledgementsAreRequestedOnce :
    (demo (conv .parked none)).conv 7 = some (conv .parked none) ∧ (conv .parked none).state ≠ .lapsed ∧
      ((station []).path .p0).class4 = [] ∧ ((station []).path .p0).state.inService = true ∧
      ((station []).path .p3).state.inService = false ∧
      (demo (conv .parked none)).ackPathFor (conv .parked none) none = some .p0 ∧
      (demo (conv .parked none)).ackPathFor { conv .parked none with ackPath := some .p1 } (some .p3) = some .p1 ∧
      (answerTo peer 0x0A0000000009#48 (some 7) (some 9) 0 (.ack 0) (some 7)).owner = some 7 := by decide

theorem test_meets_AcknowledgementsAreRequestedOnce_none :
    (demo (conv .parked none)).ackPathFor { conv .parked none with prefs := [.p3] } none = none ∧
      (demo (conv .parked none)).ackPathFor (conv .parked none) (some .p1) = some .p1 ∧
      (demo (conv .parked none)).ackPathFor (conv .carrying (some .p1)) none = some .p1 ∧
      (station []).peer 3 = some peer ∧ (peer.links.get .p0).link = some 0x0A0000000009#48 := by decide

/-! ## Single commands on small states -/

theorem test_run_probe : sent .p0 (after (.probeReceived .p0 (head 0xFFFF 0xFFFF 0)) (station [])) = some .echo := by
  decide

theorem test_run_openReceived :
    sent .p0 (after (.openReceived .p0 (head 9 0xFFFF 0)) (station [])) = some (.openReply true) ∧
      ((after (.openReceived .p0 (head 9 0xFFFF 0)) (station [])).conv 0).map Conv.state = some .carrying := by decide

theorem test_run_openConv :
    sent .p0 (after (.openConv 1 ⟨3, [0], none, none, none, none⟩) (station [])) = some .openFrame := by decide

theorem test_run_openReply :
    ((after (.openReplyReceived .p0 (head 9 7 0) 1) (demo { conv .opening none with peerHandle := none })).conv 7).map
      Conv.state = some .carrying := by decide

theorem test_run_send :
    sent .p0 (after (.send 1 7 1 1 [0xAB#8]) (demo (conv .carrying (some .p0)))) = some (.data 1 .ordinary [0xAB#8]) := by
  decide

theorem test_run_data :
    (after (.dataReceived .p0 (head 9 7 1) 1 1 [0xAB#8]) (demo (conv .carrying (some .p0)))).hlu.out =
      some (.deliver ⟨7, 1, .ordinary, 1, [0xAB#8]⟩) := by decide

theorem test_run_dataOutOfOrder :
    sent .p0 (after (.dataReceived .p0 (head 9 7 1) 2 1 [0xAB#8]) (demo (conv .carrying (some .p0)))) =
      some (.ack 0) := by decide

theorem test_run_deliverCompletion :
    sent .p0 (after .deliverCompletion
      (sending (.deliver entry) { demo (conv .carrying (some .p0)) with dlq := { entries := [entry], tx := .head } })) =
      some (.ack 1) := by decide

theorem test_run_inquiry :
    sent .p0 (after (.inquiryReceived .p0 (head 9 7 1) (some 1)) (demo (conv .carrying (some .p0)))) =
      some (.answer .voided (some 1) 1) := by decide

theorem test_run_ackTimer :
    sent .p0 (after (.ackTimerExpiry 7) (demo (waitingForAck .ordinary 0 (.ackWait 5)))) =
      some (.data 1 .ordinary []) ∧
      sent .p0 (after (.ackTimerExpiry 7) (demo (waitingForAck .singleShot 0 (.ackWait 5)))) =
        some (.inquiry (some 1)) := by decide

theorem test_run_shiftAnswer :
    ((after (.answerReceived .p0 (head 9 7 2) 1 none 0) (shifting { conv .shifting none with sendShift := 2 } slot)).conv
      7).map Conv.active = some (some .p0) := by decide

/-- The station with its peer not yet heard on P0. -/
def unheard (c : Conv) : State :=
  { demo c with prt :=
      { peers := [(3, { peer with links := peer.links.set .p0 ⟨some 0x0A0000000009#48, .unknown, 0, false, none⟩ })],
        rounds := PerPath.all none } }

/-- The frame that makes its peer REACHABLE acts before the cue it gives (R53, R68): an ABANDON finds the conversation
PARKED, so no shift begins, and an ECHO leaves it SHIFTING. -/
theorem test_run_cueFollowsTheOwnRule :
    ((after (.abandonReceived .p0 (head 9 7 0)) (unheard { conv .parked none with prefs := [.p0] })).conv 7).map
        (fun c => (c.state, c.sendShift)) = some (.lapsed, 1) ∧
      ((after (.echoReceived .p0 (head 0xFFFF 0xFFFF 0)) (unheard { conv .parked none with prefs := [.p0] })).conv 7).map
        (fun c => (c.state, c.sendShift)) = some (.shifting, 2) := by decide

theorem test_run_lineSample :
    ((after (.lineSample .p3 true) ((station []).withPath .p3 { PathRec.atStart 0 with lineRun := 3 })).path .p3).state =
      .proving := by decide

theorem test_run_frameCheckFailure :
    ((after (.frameCheckFailure .p0 [0x0A#8, 0#8, 0#8, 0#8, 0#8, 5#8]) (station [])).path .p0).score = 4 := by decide

theorem test_run_close :
    sent .p0 (after (.closeGraceful 1 7) (demo (conv .carrying (some .p0)))) = some (.close 0) := by decide

end Sys2Proof.Tests
end

section
/-! PROOFS. Rules that the statements about requests and frames share: a request decided by its owner is answered; a frame
that passes the checks reaches the conversation table; what a queued frame leaves of its path. -/

namespace Sys2Proof.Machine

/-! ## Requests on a ready link -/

/-- What the owner of a request answers on a ready link is the reply of the command that brings the request (R158, R164). -/
theorem repliesWith_of_own {c : Instr} {tag : Nat} {r : Request} {s t : State} {res : Result} {l : List Byte}
    (hc : exec c s = .next (hostRecord (.request tag r.body) s)) (hr : r.fits = true) (hs : s.ready)
    (ha : ownRequest r s.hunting = ⟨t, res, l⟩) : RepliesWith c s tag r.code res l t := by
  unfold RepliesWith
  rw [hc, hostRecord_request tag r hr hs, ha]
  rfl

/-! ## Paths -/

theorem PerPath.set_get_self {α : Type} (t : PerPath α) (p : Path) : t.set p (t.get p) = t := by
  cases p <;> rfl

/-- Writing back the record of a path changes nothing. -/
@[simp] theorem State.withPath_self (s : State) (p : Path) : s.withPath p (s.path p) = s := by
  show ({ s with paths := s.paths.set p (s.paths.get p) } : State) = s
  rw [PerPath.set_get_self]

theorem State.path_withPath (s : State) (p q : Path) (r : PathRec) :
    (s.withPath p r).path q = if q = p then r else s.path q := State.path_updPath p q _ s

@[simp] theorem State.path_withPath_same (s : State) (p : Path) (r : PathRec) : (s.withPath p r).path p = r :=
  State.path_updPath_same p _ s

/-! ## Records of conversations -/

theorem State.conv_withConv (s : State) (h j : Nat) (c : Conv) :
    (s.withConv h c).conv j = if h = j then some c else s.conv j := State.conv_setConv h j c s

@[simp] theorem State.conv_withConv_same (s : State) (h : Nat) (c : Conv) : (s.withConv h c).conv h = some c :=
  State.conv_setConv_same h c s

theorem State.conv_withConv_other (s : State) {h j : Nat} (c : Conv) (hj : j ≠ h) : (s.withConv h c).conv j = s.conv j :=
  (s.conv_withConv h j c).trans (if_neg hj.symm)

/-- Of two writes to a record the later one stands. -/
theorem State.withConv_withConv (s : State) (h : Nat) (c d : Conv) : (s.withConv h c).withConv h d = s.withConv h d := by
  show ({ s with convs := KMap.set (KMap.set s.convs h c) h d } : State) = _
  rw [KMap.set_set]
  rfl

/-- Changing a record in use writes it. -/
theorem updConv_eq {s : State} {h : Nat} {c : Conv} (hc : s.conv h = some c) (f : Conv → Conv) :
    updConv h f s = s.withConv h (f c) := by
  unfold updConv
  rw [hc]
  rfl

/-! ## Queued frames -/

/-- A frame to a present peer with a link address on the path is addressed to it (R109). -/
theorem frameTo_present {s : State} {k : Nat} {p : Path} {e : Peer} {a : LinkAddr} (he : s.peer k = some e)
    (ha : (e.links.get p).link = some a) (src dst : Option Nat) (n : Nat) (b : FrameBody) (o : Option Nat) :
    s.frameTo k p src dst n b o = some (answerTo e a src dst n b o) := by
  simp [State.frameTo, he, ha, answerTo]

/-- Without a link address there is no frame (R109). -/
theorem frameTo_unlinked {s : State} {k : Nat} {p : Path} (h : s.linkOn k p = none) (src dst : Option Nat) (n : Nat)
    (b : FrameBody) (o : Option Nat) : s.frameTo k p src dst n b o = none := by
  unfold State.linkOn at h
  unfold State.frameTo
  cases he : s.peer k with
  | none => rfl
  | some e => simp_all

/-- Class 2 of a path after a frame was put to it: unchanged where its previous copy stands there or it is full (R86). -/
theorem queue2_eq (p : Path) (f : QFrame) (s : State) :
    queue2 p f s = s.withPath p { s.path p with
      class2 :=
        if (f.body.repeats = true ∧ ∃ g ∈ (s.path p).class2, f.copyOf g = true) ∨ 64 ≤ (s.path p).class2.length then
          (s.path p).class2
        else (s.path p).class2 ++ [f] } := by
  unfold queue2 State.withPath updPath
  by_cases hc : f.body.repeats = true ∧ ∃ g ∈ (s.path p).class2, f.copyOf g = true
  · simp [hc]
  · have hb : (f.body.repeats && (s.path p).class2.any f.copyOf) = false := by
      rw [Bool.eq_false_iff]
      simpa using hc
    by_cases hl : (s.path p).class2.length < 64
    · have hn : ¬ 64 ≤ (s.path p).class2.length := by omega
      simp [hb, hc, hl, hn, Config.class2Frames]
    · have hn : 64 ≤ (s.path p).class2.length := by omega
      simp [hb, hl, hn, Config.class2Frames]

/-- A frame of a kind of which no copy is kept out joins class 2 while that has room (R86). -/
theorem queue2_once (p : Path) {f : QFrame} (s : State) (hf : f.body.repeats = false) :
    queue2 p f s = s.withPath p { s.path p with
      class2 := if (s.path p).class2.length < 64 then (s.path p).class2 ++ [f] else (s.path p).class2 } := by
  rw [queue2_eq]
  by_cases hl : (s.path p).class2.length < 64
  · have hn : ¬ 64 ≤ (s.path p).class2.length := by omega
    simp [hf, hl, hn]
  · have hn : 64 ≤ (s.path p).class2.length := by omega
    simp [hl, hn]

/-- The previous copy of a CLOSE or INQUIRY is an equal frame (R86, log entry 11). -/
theorem queue2_repeated (p : Path) {f : QFrame} (s : State) (hf : f.body.repeats = true) (ho : f.isOpen = false) :
    queue2 p f s = s.withPath p { s.path p with
      class2 :=
        if f ∈ (s.path p).class2 ∨ 64 ≤ (s.path p).class2.length then (s.path p).class2
        else (s.path p).class2 ++ [f] } := by
  have hc : (∃ g ∈ (s.path p).class2, f.copyOf g = true) ↔ f ∈ (s.path p).class2 := by
    simp [QFrame.copyOf, ho]
  rw [queue2_eq]
  simp only [hf, hc, true_and]

/-- The previous copy of an OPEN is an OPEN of the same handle (R86, log entry 11). -/
theorem queue2_open (p : Path) {f : QFrame} (s : State) (hf : f.body = .openFrame) :
    queue2 p f s = s.withPath p { s.path p with
      class2 :=
        if (∃ g ∈ (s.path p).class2, g.body = .openFrame ∧ g.srcHandle = f.srcHandle) ∨
            64 ≤ (s.path p).class2.length then (s.path p).class2
        else (s.path p).class2 ++ [f] } := by
  have hc : ∀ g, f.copyOf g = true ↔ g.body = .openFrame ∧ g.srcHandle = f.srcHandle := by
    intro g
    simp only [QFrame.copyOf, QFrame.isOpen, hf, Bool.or_eq_true, Bool.and_eq_true, decide_eq_true_eq, true_and]
    constructor
    · rintro (rfl | ⟨h1, h2⟩)
      · exact ⟨hf, rfl⟩
      · exact ⟨h1, h2.symm⟩
    · exact fun ⟨h1, h2⟩ => .inr ⟨h1, h2.symm⟩
  rw [queue2_eq]
  simp only [hf, hc, FrameBody.repeats, true_and]

/-! ## Frames that reach the conversation table -/

/-- The kinds that name both handles and are taken by binding (R2, R53, Table 8-2). -/
def FrameBody.addressed : FrameBody → Bool
  | .openFrame => false
  | .openReply _ => false
  | .probe => false
  | .echo => false
  | _ => true

/-- A received frame with both handles, as the format check reads it (R154). -/
def frameOf (hd : RxHead) (b : FrameBody) : RxFrame where
  srcNode := hd.srcNode
  srcHandle := some hd.srcHandle
  dstHandle := some hd.dstHandle
  shift := hd.shift
  body := b

theorem handleOfField_present {n : Nat} (h : n < 256) : handleOfField n = some (some n) := by
  have : n ≠ Config.absentHandle := by simp only [Config.absentHandle]; omega
  simp [handleOfField, this, Config.conversations, h]

theorem handleOfField_absent : handleOfField 0xFFFF = some none := rfl

/-- A frame whose handles are present where its kind has them passes the format check (R154). -/
theorem PassesChecks.formatCheck {s : State} {p : Path} {hd : RxHead} {b : RxBody} {body : FrameBody}
    {src dst : Option Nat} (hP : PassesChecks s p hd) (hb : b.check = some body)
    (hs : handleOfField hd.srcHandle = some src) (ht : handleOfField hd.dstHandle = some dst)
    (es : src.isSome = srcHandlePresent body) (et : dst.isSome = dstHandlePresent body) :
    formatCheck hd b = some ⟨hd.srcNode, src, dst, hd.shift, body⟩ := by
  obtain ⟨-, -, -, -, -, -, h7, h8, h9⟩ := hP
  simp [Machine.formatCheck, hb, hs, ht, es, et, h7, h8, h9]

/-- A conversation frame of a present peer on a live path is heard, an ANSWER lowers the score, and its rule follows with
the reattach cue (R53, R68, R84). -/
theorem Reaches.takesFrame {s : State} {p : Path} {hd : RxHead} {k : Nat} {b : RxBody} {f : RxFrame}
    (h : Reaches s p hd k) (hf : Machine.formatCheck hd b = some f) (h1 : f.body ≠ .probe) (h2 : f.body ≠ .echo) :
    TakesFrame (arrival p hd b) s p k (conversationRule p k f (answerCredit p f (hearPeer k p s))) := by
  obtain ⟨hP, hl, hk⟩ := h
  refine arrival_takes hP hf ?_
  have hlive : takeFrame p f s = takeLive p f s := by
    unfold takeFrame
    cases hst : (s.path p).state <;> simp [hst, PathState.live] at hl ⊢
  rw [hlive]
  unfold takeLive
  rw [formatCheck_srcNode hf, hk]
  cases hb : f.body <;> simp_all [hear, takeAtTable, frameCue]

/-- A frame with both handles present reaches the table's rule for its kind. -/
theorem Reaches.takesFrame_addressed {s : State} {p : Path} {hd : RxHead} {k : Nat} {b : RxBody} {body : FrameBody}
    (h : Reaches s p hd k) (hh : BothHandles hd) (hb : b.check = some body) (ha : body.addressed = true) :
    TakesFrame (arrival p hd b) s p k
      (takeAddressed p k (frameOf hd body) (answerCredit p (frameOf hd body) (hearPeer k p s))) := by
  have hp : srcHandlePresent body = true ∧ dstHandlePresent body = true := by
    cases body <;> simp_all [FrameBody.addressed, srcHandlePresent, dstHandlePresent]
  have hf : Machine.formatCheck hd b = some (frameOf hd body) :=
    h.1.formatCheck hb (handleOfField_present hh.1) (handleOfField_present hh.2) hp.1.symm hp.2.symm
  have ht := h.takesFrame hf (fun e => by rw [show body = .probe from e] at ha; cases ha)
    (fun e => by rw [show body = .echo from e] at ha; cases ha)
  have hr : ∀ u, conversationRule p k (frameOf hd body) u = takeAddressed p k (frameOf hd body) u := by
    intro u
    cases body <;> simp_all [FrameBody.addressed, conversationRule, frameOf]
  rwa [hr] at ht

/-! ## Binding -/

/-- A frame is bound to the record that its handle names, where that is live and of its peer and peer handle (R2). -/
theorem BoundTo.bound {u : State} {c : Conv} {k : Nat} {hd : RxHead} (hc : u.conv hd.dstHandle = some c)
    (h : BoundTo c k hd) (b : FrameBody) : u.bound k (frameOf hd b) = some (hd.dstHandle, c) := by
  obtain ⟨h1, h2, h3, h4⟩ := h
  simp [State.bound, frameOf, hc, h1, h2, h3, h4]

/-- A frame is bound to an OPENING record of its peer, whatever its source handle (R2). -/
theorem bound_opening {u : State} {c : Conv} {k : Nat} {hd : RxHead} (hc : u.conv hd.dstHandle = some c)
    (h1 : c.state = .opening) (h2 : c.peer = k) {f : RxFrame} (hf : f.dstHandle = some hd.dstHandle) :
    u.bound k f = some (hd.dstHandle, c) := by
  simp [State.bound, hf, hc, h1, h2]

theorem Unbound.bound {u : State} {k : Nat} {hd : RxHead} (h : Unbound u k hd) (b : FrameBody) :
    u.bound k (frameOf hd b) = none := bound_of_unbound h _ _ _

/-- A bound frame is taken by its kind's rule against the record of `TakenAgainst`; `was` is the state the record had
before R10, OPENING exactly where R8's acceptance has gone before (R2, R10, R53). -/
theorem TakenAgainst.takeAddressed_eq {u v : State} {p : Path} {hd : RxHead} {k : Nat} {c : Conv} {body : FrameBody}
    (h : TakenAgainst u p k hd v c) (hb : body ≠ .abandon) :
    ∃ was, (was = .opening ↔ FromOpening u p k hd v) ∧
      takeAddressed p k (frameOf hd body) u = boundRule was hd.dstHandle p (frameOf hd body) v := by
  have hrule : ∀ b, u.bound k (frameOf hd body) = some (hd.dstHandle, b) →
      takeAddressed p k (frameOf hd body) u =
        boundRule b.state hd.dstHandle p (frameOf hd body)
          (implicitAccept hd.dstHandle b (some hd.srcHandle) p u) := by
    intro b hbd
    unfold takeAddressed
    rw [hbd]
    cases body <;> simp_all [frameOf]
  obtain ⟨hc, hk, -, ⟨rfl, hB⟩ | hO⟩ := h
  · refine ⟨c.state, ⟨fun e => absurd e hB.2.1, ?_⟩, ?_⟩
    · rintro ⟨b, hb', hs, -⟩
      rw [hc] at hb'
      cases hb'
      exact absurd hs hB.2.1
    · rw [hrule c (hB.bound hc body)]
      simp [implicitAccept, hB.2.1]
  · have hO' := hO
    obtain ⟨b, hb', hs, hp, hv⟩ := hO'
    refine ⟨b.state, ⟨fun _ => hO, fun _ => hs⟩, ?_⟩
    rw [hrule b (bound_opening hb' hs hp rfl)]
    simp [implicitAccept, hs, hv]

/-- The arrival of a frame that binds (R2, R10, R53). -/
theorem Reaches.takesFrame_bound {s v : State} {p : Path} {hd : RxHead} {k : Nat} {b : RxBody} {body : FrameBody}
    {c : Conv} (h : Reaches s p hd k) (hh : BothHandles hd) (hb : b.check = some body) (ha : body.addressed = true)
    (hn : body ≠ .abandon) (hT : TakenAgainst (answerCredit p (frameOf hd body) (hearPeer k p s)) p k hd v c) :
    ∃ was, (was = .opening ↔ FromOpening (answerCredit p (frameOf hd body) (hearPeer k p s)) p k hd v) ∧
      TakesFrame (arrival p hd b) s p k (boundRule was hd.dstHandle p (frameOf hd body) v) := by
  obtain ⟨was, hw, he⟩ := hT.takeAddressed_eq hn
  exact ⟨was, hw, he ▸ h.takesFrame_addressed hh hb ha⟩

end Sys2Proof.Machine
end

section
/-! PROOFS. Power-on values, and what the two restarts leave at the completion of their reply. -/

namespace Sys2Proof.Machine

/-! ## Power-on -/

theorem reset_path (p : Path) : State.reset.path p = PathRec.atStart 0 := PerPath.get_all _ p

theorem reset_free : State.reset.rts.free = List.range 1024 := by simp only [State.reset, Rts.atStart, Config.cells]

theorem mem_reason_all (r : Reason) : r ∈ Reason.all := by cases r <;> decide

/-- Settles O2: each block is read off `State.reset`; the paths are alike, and the mask is all reasons but SETTLED. -/
theorem resetLeavesThePowerOnValues : Obligations.ResetLeavesThePowerOnValues := by
  have hpath : ∀ p, State.reset.path p = PathRec.atStart 0 := reset_path
  have hmask : ∀ r, r ∈ State.reset.ntu.mask ↔ r ≠ .settled := by
    intro r
    show r ∈ Reason.all.filter (fun r => decide (r ≠ .settled)) ↔ _
    simp [mem_reason_all]
  have hrounds : ∀ p, State.reset.prt.rounds.get p = none := fun p => PerPath.get_all _ p
  unfold Obligations.ResetLeavesThePowerOnValues
  simp only [hpath, hmask, hrounds]
  refine ⟨rfl, rfl, rfl, rfl, rfl, rfl, fun _ => rfl, reset_free, rfl, rfl, fun _ => ?_, fun _ => rfl, fun _ => trivial, rfl,
    fun _ => rfl, rfl, rfl, rfl, rfl, rfl, rfl, rfl, rfl, rfl, fun _ => trivial, rfl⟩
  exact ⟨rfl, rfl, rfl, rfl, rfl, rfl, rfl, rfl, rfl, rfl, rfl, rfl, rfl, rfl, rfl, rfl, rfl⟩

/-! ## Restarts -/

/-- A pending restart takes effect at the completion of its own reply (R171, R186). -/
theorem exec_replyCompletion_restart {s : State} {r : Reply} {k : RestartKind} (ho : s.hlu.out = some (.reply r))
    (hk : s.hlu.restart = some k) (hc : r.code = 22) (hr : r.result = .done) :
    exec .replyCompletion s = .next (intakeAll (afterEvent (restartEffect k (endOut s)))) := by
  show Host.Outcome.next (replyDone s) = _
  unfold replyDone replyLeft afterCompletion
  rw [ho, hk]
  simp [Reply.isRestart, hc, hr]

theorem restarted_tx (old new : PathRec) : (old.restarted new).tx = old.tx := by
  unfold PathRec.restarted
  split <;> simp_all

/-- Across a restart a path takes its new record but for the queues, the frame in transmission and its mark. -/
theorem restarted_record (old new : PathRec) :
    { (old.restarted new).emptied with tx := none, flush := false } = { new.emptied with tx := none, flush := false } := by
  unfold PathRec.restarted
  split <;> rfl

/-- A free port empties its queues at a restart (R88, R186). -/
theorem restarted_free {old : PathRec} (new : PathRec) (h : old.tx = none) :
    (old.restarted new).queued = [] ∧ (old.restarted new).flush = false := by
  unfold PathRec.restarted
  rw [h]
  exact ⟨rfl, rfl⟩

/-- A port with a frame in transmission keeps, until its completion, the OPEN-REPLY frames and class 2 (log entry 16). -/
theorem restarted_busy {old : PathRec} (new : PathRec) (h : old.tx ≠ none) :
    (old.restarted new).flush = true ∧
      (old.restarted new).class1 = old.class1.filter (fun g => g.body.isOpenReply) ∧
      (old.restarted new).class2 = old.class2 ∧ (old.restarted new).class3 = [] ∧ (old.restarted new).class4 = [] := by
  obtain ⟨f, hf⟩ := Option.ne_none_iff_exists'.1 h
  unfold PathRec.restarted
  rw [hf]
  exact ⟨rfl, rfl, rfl, rfl, rfl⟩

/-- A path after a warm restart, but for its queues and frame: its settings stand, the rest is as at a start (R92, R108). -/
theorem warm_record (t : Nat) (r : PathRec) :
    { (r.warm t).emptied with tx := none, flush := false } =
      { PathRec.atStart t with
        sampleInterval := r.sampleInterval, lineFilter := r.lineFilter, alarmFilter := r.alarmFilter,
        settleTime := r.settleTime, probeInterval := r.probeInterval, missLimit := r.missLimit, sources := r.sources,
        companions := r.companions, autoRevive := r.autoRevive } := restarted_record r _

theorem coldRestart_path (s : State) (p : Path) : (coldRestart s).path p = PathRec.cold s.stc.time (s.path p) :=
  PerPath.get_map _ _ p

theorem warmRestart_path (s : State) (p : Path) : (warmRestart s).path p = PathRec.warm s.stc.time (s.path p) :=
  PerPath.get_map _ _ p

/-- Settles O32: the completion runs `coldRestart`, whose blocks are those of reset but for the paths' frames. -/
theorem aColdRestartClearsThePart : Obligations.AColdRestartClearsThePart := by
  intro s r ho hk hc hr
  have hx := exec_replyCompletion_restart ho hk hc hr
  simp only [restartEffect] at hx
  refine ⟨coldRestart (endOut s), hx, rfl, rfl, reset_free, rfl, rfl, rfl, rfl, rfl,
    fun p => PerPath.get_all _ p, rfl, rfl, rfl, fun p => ?_⟩
  rw [coldRestart_path, reset_path]
  refine ⟨restarted_tx _ _, restarted_record _ _, restarted_free _, fun h => (restarted_busy _ h).1⟩

theorem warmRestart_conv (s : State) (h : Nat) : (warmRestart s).conv h = (s.conv h).map (Conv.warm s.stc.time) :=
  KMap.get?_mapVals _ _ h

theorem warmRestart_peer (s : State) (k : Nat) : (warmRestart s).peer k = (s.peer k).map Peer.warm :=
  KMap.get?_mapVals _ _ k

/-- Settles O33: the completion runs `warmRestart`; conversations, peers and paths are read through their warm values. -/
theorem aWarmRestartParksTheConversations : Obligations.AWarmRestartParksTheConversations := by
  intro s r ho hk hc hr
  have hx := exec_replyCompletion_restart ho hk hc hr
  simp only [restartEffect] at hx
  refine ⟨warmRestart (endOut s), hx, rfl, rfl, rfl, rfl, rfl, rfl, rfl, rfl, rfl,
    fun h hn => ?_, fun h c hcv => ?_, fun p => PerPath.get_all _ p, fun k hn => ?_, fun k e he => ?_, fun p => ?_⟩
  · rw [warmRestart_conv, show (endOut s).conv h = none from hn]
    rfl
  · refine ⟨Conv.warm s.stc.time c, ?_, ?_⟩
    · rw [warmRestart_conv, show (endOut s).conv h = some c from hcv]
      rfl
    · refine ⟨by cases hst : c.state <;> simp [Conv.warm, ConvState.warm, hst], ?_, rfl, rfl, rfl, rfl, rfl, rfl, rfl, rfl,
        rfl, rfl, rfl, rfl, rfl, rfl, rfl, rfl, rfl, rfl, rfl, rfl, rfl, rfl, rfl, rfl, rfl, rfl, rfl, rfl, rfl, rfl, rfl⟩
      cases hst : c.state <;> simp [Conv.warm, Conv.warmParkStart, hst]
  · rw [warmRestart_peer, show (endOut s).peer k = none from hn]
    rfl
  · refine ⟨Peer.warm e, ?_, rfl, fun p => PerPath.get_map _ _ p⟩
    rw [warmRestart_peer, show (endOut s).peer k = some e from he]
    rfl
  · have hp : (warmRestart (endOut s)).path p = (s.path p).warm s.stc.time := warmRestart_path _ p
    have hrec := warm_record s.stc.time (s.path p)
    simp only [PathRec.emptied, PathRec.atStart, PathRec.mk.injEq, true_and] at hrec
    obtain ⟨state, score, lineUp, lineTime, lineRun, lineRunTime, lineSampled, alarm, alarmTime, alarmRun,
      alarmRunTime, alarmSampled, settleTimer, cause, sampleInterval, lineFilter, alarmFilter, settleTime,
      probeInterval, missLimit, sources, companions, autoRevive, rotation⟩ := hrec
    rw [hp]
    exact ⟨restarted_tx _ _, state, score, cause, settleTimer, lineUp, lineRun, lineRunTime, lineTime, lineSampled,
      alarm, alarmRun, alarmRunTime, alarmTime, alarmSampled, rotation, sources, sampleInterval, companions,
      lineFilter, alarmFilter, settleTime, probeInterval, missLimit, autoRevive, restarted_free _, restarted_busy _⟩

end Sys2Proof.Machine
end

section
/-! PROOFS. Bound and unbound frames at the conversation table: DATA, ACK and WAIT, INQUIRY, ANSWER, CLOSE, CLOSE-REPLY and
ABANDON. -/

namespace Sys2Proof.Machine

/-! ## DATA -/

/-- The checks of a bound DATA frame in their order (R56 to R59). -/
theorem takeData_eq {v : State} {h : Nat} {c : Conv} (hc : v.conv h = some c) (p : Path) (n q : Nat) (kind : RecKind)
    (pl : List Byte) :
    takeData h p n q kind pl v =
      if n < c.inShift then v
      else if q = c.received + 1 then
        if v.dlq.entries.length < 64 then
          acceptData h { c with inShift := n } p q kind pl (v.withConv h { c with inShift := n })
        else requestAck h true (some p) (v.withConv h { c with inShift := n })
      else requestAck h false (some p) (v.withConv h { c with inShift := n }) := by
  unfold takeData
  rw [hc]
  rfl

theorem check_data {q kd : Nat} {kind : RecKind} {pl : List Byte} (h1 : 1 ≤ q) (h2 : q ≤ 4294967295)
    (hk : kindOfCode kd = some kind) (h3 : 1 ≤ pl.length) (h4 : pl.length ≤ 512) :
    (RxBody.data q kd pl).check = some (.data q kind pl) := by
  simp [RxBody.check, hk, seqOk, h1, h2, h3, h4, Config.maxSeq, Config.maxPayload]

theorem throughOk_of_le {d : Nat} (h : d ≤ 4294967295) : throughOk d = true := by
  simp [throughOk, Config.maxSeq, h]

theorem voidOk_of_mem {void : Option Nat} (h : ∀ v ∈ void, 1 ≤ v ∧ v ≤ 4294967295) : voidOk void = true := by
  cases void with
  | none => rfl
  | some v => simp [voidOk, seqOk, Config.maxSeq, h v rfl]

/-- Settles O37: binding leads to `takeData`, whose checks are read off one after the other. -/
theorem boundDataIsCheckedAndAccepted : Obligations.BoundDataIsCheckedAndAccepted := by
  intro s v p hd k q kd pl kind c hR hh h1 h2 hk h3 h4 hT
  obtain ⟨was, -, ht⟩ := hR.takesFrame_bound hh (check_data h1 h2 hk h3 h4) rfl (by simp) hT
  have hc := hT.1
  replace ht : TakesFrame (.dataReceived p hd q kd pl) s p k (takeData hd.dstHandle p hd.shift q kind pl v) := ht
  rw [takeData_eq hc] at ht
  refine ⟨fun hlt => ?_, fun hle => ?_⟩
  · rwa [if_pos hlt] at ht
  · rw [if_neg (by omega)] at ht
    refine ⟨fun hq => ?_, fun hq hroom => ?_, fun hq hroom => ?_⟩
    · rwa [if_neg hq] at ht
    · rwa [if_pos hq, if_neg (by omega)] at ht
    · rw [if_pos hq, if_pos hroom] at ht
      refine ⟨_, ht, ?_, fun h hne => ?_, rfl, rfl, rfl, rfl, rfl, rfl, rfl, rfl⟩
      · rw [hq]
        exact State.conv_setConv_same _ _ _
      · exact (State.conv_setConv ..).trans (if_neg hne.symm) |>.trans ((State.conv_setConv ..).trans (if_neg hne.symm))

/-! ## ACK and WAIT -/

/-- What the delivered-through of an ACK or WAIT does to a record (R35). -/
theorem settleOn_eq {v : State} {h : Nat} {c : Conv} (hc : v.conv h = some c) (d : Nat) (credit : Option Path) :
    settleOn h d credit v = if c.settled < d ∧ d ≤ c.highest then settleAdvance h d credit v else v := by
  unfold settleOn
  rw [hc]
  simp

/-- A pause starts on a CARRYING record alone (R40). -/
theorem startPause_eq {u : State} {h : Nat} {b : Conv} (hb : u.conv h = some b) :
    startPause h u =
      if b.state = .carrying then
        u.withConv h { b with ackTimer := .stopped, waitPause := some (u.stc.time + b.ackInterval * 1000) }
      else u := by
  unfold startPause
  rw [hb]
  rfl

/-- Settles O38: both kinds settle by `settleOn`; a WAIT then pauses, but not where R10 has gone before. -/
theorem boundAckAndWaitSettle : Obligations.BoundAckAndWaitSettle := by
  intro s v p hd k d c hR hh hd' hT u hu
  have hc := hT.1
  have hset : settleOn hd.dstHandle d (some p) v = u := (settleOn_eq hc d (some p)).trans hu.symm
  have hd2 := throughOk_of_le hd'
  obtain ⟨_, -, hack⟩ :=
    hR.takesFrame_bound hh (b := .ack d) (body := .ack d) (by simp [RxBody.check, hd2]) rfl (by simp) hT
  obtain ⟨was, hwas, hwait⟩ :=
    hR.takesFrame_bound hh (b := .wait d) (body := .wait d) (by simp [RxBody.check, hd2]) rfl (by simp) hT
  replace hack : TakesFrame (.ackReceived p hd d) s p k (settleOn hd.dstHandle d (some p) v) := hack
  replace hwait : TakesFrame (.waitReceived p hd d) s p k (takeWaitFrom was hd.dstHandle d p v) := hwait
  rw [hset] at hack
  refine ⟨hack, fun hO => ?_, fun hv hB => ?_⟩
  · rw [hwas.2 hO] at hwait
    rwa [show takeWaitFrom .opening hd.dstHandle d p v = settleOn hd.dstHandle d (some p) v from rfl, hset] at hwait
  · have hne : was ≠ .opening := by
      intro e
      obtain ⟨b, hb, ho, -⟩ := hwas.1 e
      rw [show (answerCredit p (frameOf hd (.wait d)) (hearPeer k p s)) = v from hv.symm, hc] at hb
      cases hb
      exact hB.2.1 ho
    rw [takeWaitFrom, if_neg hne, takeWait, hset] at hwait
    refine ⟨fun _ b hb hst => ?_, fun b hb hst => ?_⟩
    · rwa [startPause_eq hb, if_neg hst] at hwait
    · rwa [startPause_eq hb, if_pos hst] at hwait

/-! ## ANSWER -/

/-- The slot of a conversation is a slot in use that names its handle. -/
theorem slotOf_spec (s : State) (h : Nat) :
    (s.slotOf h = none ↔ ∀ x ∈ s.she.slots, x.2.handle ≠ h) ∧
      ∀ n sl, s.slotOf h = some (n, sl) → (n, sl) ∈ s.she.slots ∧ sl.handle = h := by
  unfold State.slotOf
  refine ⟨by simp [List.find?_eq_none], fun n sl hs => ⟨List.mem_of_find?_eq_some hs, ?_⟩⟩
  simpa using List.find?_some hs

theorem answerMatches_iff (c : Conv) (n : Nat) (void : Option Nat) (d : Nat) :
    c.answerMatches n void d = true ↔
      ∃ a v x, c.ackTimer = .inquiry a v x ∧ n = c.sendShift ∧ void = some v ∧ d ≤ c.highest := by
  unfold Conv.answerMatches
  cases c.ackTimer <;> simp [and_assoc]

theorem slotAnswerMatches_iff (sl : Slot) (c : Conv) (p : Path) (n : Nat) (void : Option Nat) (d : Nat) :
    sl.answerMatches c p n void d = true ↔
      sl.phase = .inquiring ∧ sl.candidate = some p ∧ n = sl.newShift ∧ void = sl.void ∧ d ≤ c.highest := by
  simp [Slot.answerMatches, and_assoc]

/-- A bound ANSWER is decided by the record it is bound to (R44, R46, R138, R140). -/
theorem takeAnswer_eq {u : State} {h : Nat} {c : Conv} (hc : u.conv h = some c) (p : Path) (n : Nat)
    (out : AnswerOutcome) (void : Option Nat) (d : Nat) :
    takeAnswer h p n out void d u =
      if out = .notKnown then lapse h .notKnown u else applyAnswer h c p n out void d u := by
  unfold takeAnswer
  rw [hc]

/-- Settles O41: binding leads to `takeAnswer`, which asks for a match by the record's state. -/
theorem boundAnswersAreMatchedBeforeTheyAct : Obligations.BoundAnswersAreMatchedBeforeTheyAct := by
  refine ⟨slotOf_spec, ?_⟩
  intro s p hd k o d void out u c hR hh ho hv hd' hT
  have hb : (RxBody.answer o void d).check = some (.answer out void d) := by
    simp [RxBody.check, ho, voidOk_of_mem hv, throughOk_of_le hd']
  obtain ⟨was, -, ht⟩ := hR.takesFrame_bound hh hb rfl (by simp) hT
  replace ht : TakesFrame (.answerReceived p hd o void d) s p k
    (takeAnswer hd.dstHandle p hd.shift out void d u) := ht
  rw [takeAnswer_eq hT.1] at ht
  refine ⟨fun hout => ?_, fun hout hst => ⟨fun hm => ?_, fun hm => ?_⟩,
    fun hout hst => ⟨fun n sl hsl => ⟨fun hm => ?_, fun hm => ?_⟩, fun hsl => ?_⟩, fun hout h1 h2 => ?_⟩
  · rwa [if_pos hout] at ht
  · rw [if_neg hout, applyAnswer, hst] at ht
    simpa only [(answerMatches_iff ..).2 hm, if_true] using ht
  · have hno : c.answerMatches hd.shift void d = false := by
      rw [Bool.eq_false_iff, Ne, answerMatches_iff]
      rintro ⟨a, v, x, hx, h⟩
      exact hm a v x hx h
    rw [if_neg hout, applyAnswer, hst] at ht
    simpa only [hno, Bool.false_eq_true, if_false] using ht
  · rw [if_neg hout, applyAnswer, hst] at ht
    simpa only [hsl, (slotAnswerMatches_iff ..).2 hm, if_true] using ht
  · have hno : sl.answerMatches c p hd.shift void d = false := by
      rw [Bool.eq_false_iff, Ne, slotAnswerMatches_iff]
      exact hm
    rw [if_neg hout, applyAnswer, hst] at ht
    simpa only [hsl, hno, Bool.false_eq_true, if_false] using ht
  · rw [if_neg hout, applyAnswer, hst] at ht
    simpa only [hsl] using ht
  · rw [if_neg hout, applyAnswer] at ht
    cases hst : c.state <;> simp_all

end Sys2Proof.Machine
end

section
/-! PROOFS. What stays of the peer table: a score and a quench leave it as it stands, and hearing a frame, a revival and an
opening leave every entry its node and its link addresses. -/

namespace Sys2Proof.Machine

/-! ## The peer table under scores and quenches -/

@[simp] theorem forEach_prt {α : Type} (l : List α) (f : α → State → State) (s : State)
    (hf : ∀ a t, (f a t).prt = t.prt) : (forEach l f s).prt = s.prt :=
  forEach_keeps (fun t => t.prt = s.prt) f (fun a t h => (hf a t).trans h) l s rfl

@[simp] theorem leaveService_prt (p : Path) (l : List QFrame) (s : State) : (leaveService p l s).prt = s.prt :=
  State.roads_prt (leaveService_roads p l s)

@[simp] theorem enterQuench_prt (n : Nat) (p : Path) (why : Cause) (s : State) : (enterQuench n p why s).prt = s.prt := by
  induction n generalizing p why s with
  | zero => rfl
  | succ n ih =>
      unfold enterQuench
      rw [forEach_prt]
      · simp [apply_ite State.prt]
      · intro q t
        split
        · exact ih _ _ _
        · rfl

@[simp] theorem quenchPath_prt (p : Path) (why : Cause) (s : State) : (quenchPath p why s).prt = s.prt :=
  enterQuench_prt 4 p why s

@[simp] theorem handCondition_prt (src : QuenchSource) (why : Cause) (p : Path) (s : State) :
    (handCondition src why p s).prt = s.prt := by
  unfold handCondition
  split <;> simp

@[simp] theorem cueAll_prt (k : Option Nat) (p : Path) (s : State) : (cueAll k p s).prt = s.prt :=
  State.roads_prt (cueAll_roads k p s)

@[simp] theorem applyScore_prt (p : Path) (n : Nat) (s : State) : (applyScore p n s).prt = s.prt := by
  unfold applyScore
  simp [apply_ite State.prt]

@[simp] theorem addScore_prt (p : Path) (n : Nat) (s : State) : (addScore p n s).prt = s.prt := applyScore_prt ..

@[simp] theorem provingCheck_prt (p : Path) (s : State) : (provingCheck p s).prt = s.prt := by
  unfold provingCheck
  simp [apply_ite State.prt]

/-- Reading a peer entry looks at the peer table alone. -/
theorem State.peer_congr {s t : State} (h : t.prt = s.prt) (k : Nat) : t.peer k = s.peer k := by
  simp [State.peer, h]

/-! ## Nodes and link addresses -/

/-- The node and the link addresses of the entry of each slot: what a frame to it is addressed with (R109). -/
def State.addresses (s : State) (k : Nat) : Option (Nat × PerPath (Option LinkAddr)) :=
  (s.peer k).map fun e => (e.node, e.links.map PeerLink.link)

theorem addresses_congr {s t : State} (h : t.prt.peers = s.prt.peers) : t.addresses = s.addresses := by
  funext k
  simp [State.addresses, State.peer, h]

/-- Where the addresses stand, an entry with a link address still has it. -/
theorem addresses_entry {s t : State} {k : Nat} {p : Path} {e : Peer} {a : LinkAddr} (h : t.addresses = s.addresses)
    (he : s.peer k = some e) (ha : (e.links.get p).link = some a) :
    ∃ e', t.peer k = some e' ∧ e'.node = e.node ∧ (e'.links.get p).link = some a := by
  have hk := congrFun h k
  simp only [State.addresses, he, Option.map_some, Option.map_eq_some_iff, Prod.mk.injEq] at hk
  obtain ⟨e', he', hn, hl⟩ := hk
  refine ⟨e', he', hn, ?_⟩
  have := congrArg (PerPath.get · p) hl
  simpa [ha] using this

@[simp] theorem forEach_addresses {α : Type} (l : List α) (f : α → State → State) (s : State)
    (hf : ∀ a t, (f a t).addresses = t.addresses) : (forEach l f s).addresses = s.addresses :=
  forEach_keeps (fun t => t.addresses = s.addresses) f (fun a t h => (hf a t).trans h) l s rfl

theorem PerPath.map_set {α β : Type} (f : α → β) (t : PerPath α) (p : Path) (v : α) :
    (t.set p v).map f = (t.map f).set p (f v) := by
  cases p <;> rfl

/-- Changing the fields of an entry on a path, its link address apart, leaves every address. -/
theorem updLink_addresses (k : Nat) (p : Path) (f : PeerLink → PeerLink) (s : State) (hf : ∀ l, (f l).link = l.link) :
    (updLink k p f s).addresses = s.addresses := by
  cases he : s.peer k with
  | none => simp [updLink, updPeer, he]
  | some e =>
    funext j
    rw [updLink_eq k p f s e he]
    show (KMap.get? (KMap.set _ _ _) j).map _ = (KMap.get? s.prt.peers j).map _
    rw [KMap.get?_set]
    by_cases hj : k = j
    · subst hj
      have hl : (e.links.map PeerLink.link).set p (e.links.get p).link = e.links.map PeerLink.link := by
        rw [← PerPath.get_map PeerLink.link e.links p, PerPath.set_get_self]
      rw [if_pos rfl, show KMap.get? s.prt.peers k = some e from he]
      simp [PerPath.map_set, hf, hl]
    · rw [if_neg hj]

@[simp] theorem updPath_addresses (p : Path) (f : PathRec → PathRec) (s : State) :
    (updPath p f s).addresses = s.addresses := rfl
@[simp] theorem raisePath_addresses (p : Path) (r : Reason) (s : State) : (raisePath p r s).addresses = s.addresses := rfl
@[simp] theorem raisePeer_addresses (k : Nat) (r : Reason) (s : State) : (raisePeer k r s).addresses = s.addresses := rfl
@[simp] theorem setRound_addresses (p : Path) (t : Option Nat) (s : State) :
    (setRound p t s).addresses = s.addresses := rfl

@[simp] theorem queueProbe_addresses (p : Path) (k : Nat) (s : State) : (queueProbe p k s).addresses = s.addresses := by
  unfold queueProbe queueOpt
  split <;> rfl

@[simp] theorem becomeUnknown_addresses (p : Path) (k : Nat) (s : State) :
    (becomeUnknown p k s).addresses = s.addresses := by
  have h : ∀ t, (updLink k p (fun l => { l with reach := .unknown, miss := 0, heard := false }) t).addresses =
      State.addresses t := fun t => updLink_addresses k p _ t fun _ => rfl
  unfold becomeUnknown
  simp only [h]
  split <;> rfl

@[simp] theorem stopRounds_addresses (p : Path) (s : State) : (stopRounds p s).addresses = s.addresses := by
  simp [stopRounds]

@[simp] theorem beginRound_addresses (p : Path) (s : State) : (beginRound p s).addresses = s.addresses := by
  have h : ∀ k t, (updLink k p (fun l => { l with heard := false }) t).addresses = t.addresses := fun k t =>
    updLink_addresses k p _ t fun _ => rfl
  simp [beginRound, h]

@[simp] theorem provingCheck_addresses (p : Path) (s : State) : (provingCheck p s).addresses = s.addresses :=
  addresses_congr (congrArg Prt.peers (provingCheck_prt p s))

@[simp] theorem revivedPath_addresses (p : Path) (s : State) : (revivedPath p s).addresses = s.addresses := by
  unfold revivedPath
  simp only
  (repeat' split) <;> simp

@[simp] theorem revive_addresses (n : Nat) (p : Path) (s : State) : (revive n p s).addresses = s.addresses := by
  induction n generalizing p s with
  | zero => rfl
  | succ n ih =>
      have hq : ∀ q t, (if t.autoReady q then revive n q t else t).addresses = State.addresses t := by
        intro q t
        split
        · exact ih q t
        · rfl
      unfold revive
      simp only
      (repeat' split) <;> simp [hq]

@[simp] theorem releaseEvent_addresses (p : Path) (s : State) : (releaseEvent p s).addresses = s.addresses := by
  unfold releaseEvent
  split <;> simp

@[simp] theorem becomeReachable_addresses (k : Nat) (p : Path) (s : State) :
    (becomeReachable k p s).addresses = s.addresses := by
  have h : (updLink k p (fun l => { l with reach := .reachable }) s).addresses = s.addresses :=
    updLink_addresses k p _ s fun _ => rfl
  unfold becomeReachable
  simp only
  split <;> simp [h]

/-- Hearing a frame leaves every entry its node and its link addresses (R116, R118). -/
@[simp] theorem hearPeer_addresses (k : Nat) (p : Path) (s : State) : (hearPeer k p s).addresses = s.addresses := by
  have h : (updLink k p (fun l => { l with heard := true, miss := 0, lastHeard := some s.now }) s).addresses =
      s.addresses := updLink_addresses k p _ s fun _ => rfl
  unfold hearPeer
  simp only
  split <;> simp [h]

/-! ## Opening -/

@[simp] theorem displaceOne_roads (j : Nat) (s : State) : (displaceOne j s).roads = s.roads := by
  simp [displaceOne]

@[simp] theorem displace_roads (k ph h : Nat) (s : State) : (displace k ph h s).roads = s.roads :=
  forEach_roads _ _ _ displaceOne_roads

@[simp] theorem acceptOpening_roads (h : Nat) (c : Conv) (ph : Nat) (p : Path) (s : State) :
    (acceptOpening h c ph p s).roads = s.roads := by
  unfold acceptOpening
  simp only
  split <;> simp

/-- The record a bound frame is taken against stands beside the peer table of the state it was heard in. -/
theorem TakenAgainst.prt {u v : State} {p : Path} {hd : RxHead} {k : Nat} {c : Conv} (h : TakenAgainst u p k hd v c) :
    v.prt = u.prt := by
  obtain ⟨-, -, -, ⟨rfl, -⟩ | ⟨b, -, -, -, rfl⟩⟩ := h
  · rfl
  · exact State.roads_prt (acceptOpening_roads _ _ _ _ _)

/-- The entry of the sender, with its address on the path, as the own rule of a bound frame reads it. -/
theorem TakenAgainst.sender {s v : State} {p : Path} {hd : RxHead} {k : Nat} {c : Conv} {e : Peer} {a : LinkAddr}
    (h : TakenAgainst (hearPeer k p s) p k hd v c) (he : s.peer k = some e) (ha : (e.links.get p).link = some a) :
    ∃ e', v.peer k = some e' ∧ e'.node = e.node ∧ (e'.links.get p).link = some a :=
  addresses_entry ((addresses_congr (congrArg Prt.peers h.prt)).trans (hearPeer_addresses k p s)) he ha

end Sys2Proof.Machine
end

section
/-! PROOFS. INQUIRY, CLOSE, CLOSE-REPLY and ABANDON frames at the conversation table, and frames bound to no record. -/

namespace Sys2Proof.Machine

/-! ## INQUIRY -/

/-- A frame is addressed by the node of its peer's entry alone. -/
theorem answerTo_congr {e e' : Peer} (h : e'.node = e.node) (a : LinkAddr) (src dst : Option Nat) (n : Nat)
    (b : FrameBody) (o : Option Nat) : answerTo e' a src dst n b o = answerTo e a src dst n b o := by
  simp [answerTo, h]

/-- A bound INQUIRY writes the counters of Table 3-4 and draws its ANSWER (R64). -/
theorem takeInquiry_eq {u : State} {h k : Nat} {c : Conv} {p : Path} {e : Peer} {a : LinkAddr} {dst : Option Nat}
    (hc : u.conv h = some c) (hk : c.peer = k) (hdst : c.peerHandle = dst) (he : u.peer k = some e)
    (ha : (e.links.get p).link = some a) (n : Nat) (void : Option Nat) :
    takeInquiry h p n void u =
      (u.withConv h
          { c with
            inShift := max c.inShift n
            received := (voidDecision void c.received c.delivered).2.1
            delivered := (voidDecision void c.received c.delivered).2.2 }).withPath p
        ((u.path p).withAnswer
          (answerTo e a (some h) dst n
            (.answer (voidDecision void c.received c.delivered).1 void
              (voidDecision void c.received c.delivered).2.2) none)) := by
  subst hk hdst
  unfold takeInquiry
  rw [hc]
  exact answerFrame_eq_withAnswer (u := u.withConv h _) he ha ..

/-- The rows of Table 3-4. -/
theorem voidDecision_some (v r d : Nat) :
    voidDecision (some v) r d =
      if v ≤ d then (.ordinary, r, d)
      else if v ≤ r then (.inDelivery, r, d)
      else if r = v - 1 ∧ d = v - 1 then (.voided, v, v)
      else if r = v - 1 then (.inDelivery, r, d)
      else (.notKnown, r, d) := by
  unfold voidDecision
  by_cases h1 : v ≤ d
  · simp [h1]
  by_cases h2 : v ≤ r
  · simp [h1, h2]
  by_cases h3 : r = v - 1
  · by_cases h4 : d = v - 1
    · simp [h3, h4, show v - 1 + 1 = v by omega]
    · simp [h1, h3, h4, show v - 1 + 1 = v by omega, show d + 1 ≠ v by omega]
  · simp [h1, h2, h3, show r + 1 ≠ v by omega]

/-- Settles O40: binding leads to `takeInquiry`; the answer goes to the sender's entry, whose address hearing and R10 leave
as it stood. -/
theorem boundInquiryIsAnsweredByTheVoidTable : Obligations.BoundInquiryIsAnsweredByTheVoidTable := by
  refine ⟨fun s f out void d hf => by simp [State.beginBody, hf], ?_⟩
  intro s u p hd k void c e a hR hh hv hT he ha
  have hb : (RxBody.inquiry void).check = some (.inquiry void) := by simp [RxBody.check, voidOk_of_mem hv]
  obtain ⟨was, -, ht⟩ := hR.takesFrame_bound hh hb rfl (by simp) hT
  replace ht : TakesFrame (.inquiryReceived p hd void) s p k (takeInquiry hd.dstHandle p hd.shift void u) := ht
  obtain ⟨e', he', hn, ha'⟩ := hT.sender he ha
  obtain ⟨hc, hk, hph, -⟩ := hT
  rw [takeInquiry_eq hc hk hph he' ha', answerTo_congr hn] at ht
  obtain ⟨res, hres⟩ : ∃ res, res = voidDecision void c.received c.delivered := ⟨_, rfl⟩
  rw [← hres] at ht
  refine ⟨res.1, res.2.1, res.2.2, ht, fun h0 => ?_, fun v h1 => ?_⟩
  · rw [hres, h0]
    exact ⟨rfl, rfl, rfl⟩
  · rw [hres, h1, voidDecision_some]
    (repeat' split) <;> simp

/-! ## CLOSE -/

/-- The record that a CLOSE whose final sequence is delivered-through leaves, before its completion (R67). -/
def farClosedBy (h : Nat) (c : Conv) (u : State) : State :=
  if c.farClosed then u else raiseConv h .farClosed (u.withConv h { c with farClosed := true })

theorem farClosedBy_conv {u : State} {h : Nat} {c : Conv} (hc : u.conv h = some c) :
    (farClosedBy h c u).conv h = some { c with farClosed := true } := by
  unfold farClosedBy
  split
  · rename_i hf
    rw [hc, ← hf]
  · exact State.conv_withConv_same _ _ _

theorem farClosedBy_other {u : State} {h j : Nat} (c : Conv) (hj : j ≠ h) : (farClosedBy h c u).conv j = u.conv j := by
  unfold farClosedBy
  split
  · rfl
  · exact State.conv_withConv_other _ _ hj

/-- A bound CLOSE is answered, recorded and completed when all is delivered, and changes nothing otherwise (R67). -/
theorem takeClose_eq {u : State} {h k : Nat} {c : Conv} {p : Path} {e : Peer} {a : LinkAddr} (hc : u.conv h = some c)
    (hk : c.peer = k) (he : u.peer k = some e) (ha : (e.links.get p).link = some a) (f : Nat) :
    takeClose h p f u =
      if c.delivered = f then
        closeCompletion h (farClosedBy h c
          (u.withPath p ((u.path p).withAnswer (answerTo e a (some h) c.peerHandle 0 (.closeReply f) none))))
      else u := by
  subst hk
  unfold takeClose
  rw [hc]
  simp only [answerFrame_eq_withAnswer he ha]
  split
  · unfold farClosedBy updConv
    split
    · rfl
    · rw [show (u.withPath p _).conv h = some c from hc]
      rfl
  · rfl

/-- A record becomes VACANT where both directions are closed (R19). -/
theorem closeCompletion_eq {u : State} {h : Nat} {c : Conv} (hc : u.conv h = some c) :
    closeCompletion h u = if c.closeStage = .closedOut ∧ c.farClosed = true then vacate h u else u := by
  unfold closeCompletion
  rw [hc]
  simp

/-- Settles O45: binding leads to `takeClose`. -/
theorem aBoundCloseIsAnsweredWhenAllIsDelivered : Obligations.ABoundCloseIsAnsweredWhenAllIsDelivered := by
  intro s p hd k f u c e a hR hh hf hT he ha
  obtain ⟨was, -, ht⟩ := hR.takesFrame_bound hh (b := .close f) (body := .close f)
    (by simp [RxBody.check, throughOk_of_le hf]) rfl (by simp) hT
  replace ht : TakesFrame (.closeReceived p hd f) s p k (takeClose hd.dstHandle p f u) := ht
  obtain ⟨hc, hk, hph, -⟩ := hT
  rw [takeClose_eq hc hk he ha, hph] at ht
  refine ⟨fun hne => ?_, fun heq => ?_⟩
  · rwa [if_neg hne.symm] at ht
  · obtain ⟨w, hw⟩ : ∃ w, w = u.withPath p ((u.path p).withAnswer
        (answerTo e a (some hd.dstHandle) (some hd.srcHandle) 0 (.closeReply f) none)) := ⟨_, rfl⟩
    have hcw : w.conv hd.dstHandle = some c := by
      rw [hw]
      exact hc
    rw [if_pos heq.symm, ← hw, closeCompletion_eq (farClosedBy_conv hcw)] at ht
    refine ⟨_, ?_, farClosedBy_conv hcw, fun j hj => (farClosedBy_other c hj).trans ?_, fun h0 => ?_, fun h1 => ?_, ?_⟩
    · rw [show (farClosedBy hd.dstHandle c w).paths = w.paths from by unfold farClosedBy; split <;> rfl, hw]
      rfl
    · rw [hw]
      rfl
    · rw [farClosedBy, if_neg (by simp [h0]), mem_reasonsAt_raiseConv]
      exact .inl rfl
    · rw [farClosedBy, if_pos h1, hw]
      rfl
    · simpa only [and_true] using ht

/-! ## CLOSE-REPLY and ABANDON -/

theorem awaitsCloseReply_iff (c : Conv) :
    c.awaitsCloseReply = true ↔
      c.closeStage = .closeSent ∨
        (c.closeStage = .draining ∧ hasSent c.journal = false ∧ hasWaiting c.journal = false) := by
  unfold Conv.awaitsCloseReply
  cases c.closeStage <;> simp

/-- A CLOSE-REPLY is taken where one is awaited with the record's final sequence (R18, R19). -/
theorem takeCloseReply_eq {u : State} {h : Nat} {c : Conv} (hc : u.conv h = some c) (f : Nat) :
    takeCloseReply h f u =
      if c.awaitsCloseReply = true ∧ f = c.highest then
        closeCompletion h (u.withConv h { c with closeTimer := none, closeStage := .closedOut, retryCount := 0 })
      else u := by
  unfold takeCloseReply
  rw [hc]
  simp [State.withConv]

/-- Settles O46: a CLOSE-REPLY goes by `takeCloseReply`, an ABANDON by the peer handle of the record it is bound to. -/
theorem closeRepliesCloseOutAndAbandonsLapse : Obligations.CloseRepliesCloseOutAndAbandonsLapse := by
  refine ⟨?_, ?_⟩
  · intro s p hd k f u c hR hh hf hT
    obtain ⟨was, -, ht⟩ := hR.takesFrame_bound hh (b := .closeReply f) (body := .closeReply f)
      (by simp [RxBody.check, throughOk_of_le hf]) rfl (by simp) hT
    replace ht : TakesFrame (.closeReplyReceived p hd f) s p k (takeCloseReply hd.dstHandle f u) := ht
    rw [takeCloseReply_eq hT.1] at ht
    split
    · rename_i hcond
      rw [← awaitsCloseReply_iff] at hcond
      rw [if_pos hcond, closeCompletion_eq (State.conv_withConv_same _ _ _)] at ht
      refine ⟨fun h0 => ?_, fun h1 => ?_⟩
      · simpa [h0] using ht
      · simpa [h1] using ht
    · rename_i hcond
      rw [← awaitsCloseReply_iff] at hcond
      rwa [if_neg hcond] at ht
  · intro s p hd k u c hR hh hu hc
    have ht := hR.takesFrame_addressed hh (b := .abandon) (body := .abandon) rfl rfl
    replace ht : TakesFrame (.abandonReceived p hd) s p k (takeAddressed p k (frameOf hd .abandon) u) := by
      rw [hu]
      exact ht
    refine ⟨fun hB => ?_, fun ho hn => ?_⟩
    · rw [takeAddressed, hB.bound hc .abandon] at ht
      simpa [frameOf, takeAbandon, hB.2.2.2] using ht
    · by_cases hp : c.peer = k
      · rw [takeAddressed, bound_opening hc ho hp rfl] at ht
        simpa [frameOf, takeAbandon, hn] using ht
      · have hU : Unbound u k hd := by
          intro b hb
          rw [hc] at hb
          cases hb
          exact .inr (.inl hp)
        rwa [takeAddressed, hU.bound .abandon] at ht

/-! ## Frames bound to no record -/

/-- An unbound frame with both handles is answered by its kind alone (R19, R65). -/
theorem Reaches.takesFrame_unbound {s : State} {p : Path} {hd : RxHead} {k : Nat} {b : RxBody} {body : FrameBody}
    (h : Reaches s p hd k) (hh : BothHandles hd) (hb : b.check = some body) (ha : body.addressed = true)
    (hU : Unbound (answerCredit p (frameOf hd body) (hearPeer k p s)) k hd) :
    TakesFrame (arrival p hd b) s p k
      (takeUnbound p k (frameOf hd body) (answerCredit p (frameOf hd body) (hearPeer k p s))) := by
  have ht := h.takesFrame_addressed hh hb ha
  rwa [takeAddressed, hU.bound body] at ht

/-- Settles O47: each kind is read off `takeUnbound`, its answer put to class 1 of the path. -/
theorem unboundFramesAreAnsweredWithoutARecord : Obligations.UnboundFramesAreAnsweredWithoutARecord := by
  intro s p hd k u e a hR hh hu he ha
  subst hu
  refine ⟨fun hU => ⟨fun q kd pl h1 h2 hkd h3 h4 => ?_, fun void hv => ?_, fun f hf => ?_, fun d hd' => ?_, ?_⟩,
    fun o void d out ho hv hd' hU => ?_⟩
  · obtain ⟨kind, hkind⟩ : ∃ kind, kindOfCode kd = some kind := by
      rcases hkd with rfl | rfl
      · exact ⟨_, rfl⟩
      · exact ⟨_, rfl⟩
    rw [← answerFrame_eq_withAnswer he ha]
    exact hR.takesFrame_unbound hh (check_data h1 h2 hkind h3 h4) rfl hU
  · rw [← answerFrame_eq_withAnswer he ha]
    exact hR.takesFrame_unbound hh (b := .inquiry void) (body := .inquiry void)
      (by simp [RxBody.check, voidOk_of_mem hv]) rfl hU
  · rw [← answerFrame_eq_withAnswer he ha]
    exact hR.takesFrame_unbound hh (b := .close f) (body := .close f)
      (by simp [RxBody.check, throughOk_of_le hf]) rfl hU
  · have hok := throughOk_of_le hd'
    exact ⟨hR.takesFrame_unbound hh (b := .ack d) (body := .ack d) (by simp [RxBody.check, hok]) rfl hU,
      hR.takesFrame_unbound hh (b := .wait d) (body := .wait d) (by simp [RxBody.check, hok]) rfl hU,
      hR.takesFrame_unbound hh (b := .closeReply d) (body := .closeReply d) (by simp [RxBody.check, hok]) rfl hU⟩
  · exact hR.takesFrame_unbound hh (b := .abandon) (body := .abandon) rfl rfl hU
  · exact hR.takesFrame_unbound hh (b := .answer o void d) (body := .answer out void d)
      (by simp [RxBody.check, ho, voidOk_of_mem hv, throughOk_of_le hd']) rfl hU

end Sys2Proof.Machine
end

section
/-! PROOFS. What a lapse and a record's becoming VACANT leave, with the shift queue empty, so that no grant follows. -/

namespace Sys2Proof.Machine

/-! ## What leaves with a record -/

/-- A value that stays in a filtered map is read as before. -/
theorem KMap.get?_filter {α : Type} {m : KMap α} {k : Nat} {v : α} {f : Nat × α → Bool} (hm : KMap.get? m k = some v)
    (hf : f (k, v) = true) : KMap.get? (m.filter f) k = some v := by
  induction m with
  | nil => cases hm
  | cons e t ih =>
    obtain ⟨j, w⟩ := e
    unfold KMap.get? at hm
    split at hm
    · rename_i hj
      cases hm
      subst hj
      rw [List.filter_cons_of_pos hf]
      simp [KMap.get?]
    · rename_i hj
      rw [List.filter_cons]
      split
      · simp only [KMap.get?, hj, if_false]
        exact ih hm
      · exact ih hm

/-- After a handle has left the shift engine no slot names it (R1, R21, R130). -/
theorem leaveShift_slots (h : Nat) (s : State) : ∀ e ∈ (leaveShift h s).she.slots, e.2.handle ≠ h := by
  simp [leaveShift]

/-- The slots of other conversations stay. -/
theorem leaveShift_slot {s : State} {h k : Nat} {sl : Slot} (hs : s.slot k = some sl) (hne : sl.handle ≠ h) :
    (leaveShift h s).slot k = some sl := KMap.get?_filter hs (by simpa using hne)

theorem leaveShift_queue_nil {s : State} (h : Nat) (hq : s.she.queue = []) : (leaveShift h s).she.queue = [] := by
  simp [leaveShift, hq]

/-- Raising a reason of one handle leaves the reasons of the others. -/
theorem reasonsAt_raiseConv_other {h j : Nat} (x : Reason) (s : State) (hj : j ≠ h) :
    reasonsAt (raiseConv h x s).ntu.convs j = reasonsAt s.ntu.convs j := by
  simp [reasonsAt, KMap.get?_set, hj.symm]

theorem makeUnsure_eq (j : List JRec) :
    makeUnsure j =
      j.map fun r => if r.status = .waiting ∨ r.status = .sent then { r with status := .unsure } else r := by
  simp [makeUnsure, JRec.isSent, JRec.isWaiting, or_comm]

/-! ## Lapsing -/

/-- The record that a lapse leaves (R21, R48). -/
def Conv.lapsedBy (c : Conv) (why : LapseReason) : Conv :=
  { c with
    state := .lapsed, lapseReason := some why, active := none, forced := none, openAttempt := none,
    ackPath := none, parkStart := none, hold := none, ackTimer := .stopped, waitPause := none,
    openTimer := none, closeTimer := none, retryCount := 0, journal := makeUnsure c.journal }

/-- A LAPSED record ignores a further lapse (R21). -/
theorem lapse_lapsed {s : State} {h : Nat} {c : Conv} (hc : s.conv h = some c) (hl : c.state = .lapsed)
    (hq : s.she.queue = []) (why : LapseReason) : lapse h why s = s := by
  have : lapseCore h why s = s := by
    unfold lapseCore
    rw [hc]
    simp only [hl, if_true]
  rw [lapse, this, grantAll_nil hq]

/-- A lapse of a live record (R21), step by step. -/
theorem lapse_live {s : State} {h : Nat} {c : Conv} (hc : s.conv h = some c) (hl : c.state ≠ .lapsed)
    (hq : s.she.queue = []) (why : LapseReason) :
    lapse h why s =
      raiseConv h .lapsed (withdrawConv h (leaveShift h (s.withConv h (c.lapsedBy why)))) := by
  have : lapseCore h why s =
      raiseConv h .lapsed (withdrawConv h (leaveShift h (s.withConv h (c.lapsedBy why)))) := by
    unfold lapseCore
    rw [hc]
    simp only [if_neg hl]
    rfl
  rw [lapse, this]
  exact grantAll_nil (leaveShift_queue_nil (s := s.withConv h _) h hq)

/-! ## Becoming VACANT -/

/-- Becoming VACANT, step by step (R1, R175). -/
theorem vacate_eq {s : State} {h : Nat} {c : Conv} (hc : s.conv h = some c) (hq : s.she.queue = []) :
    vacate h s =
      eraseConv h (freezeClosing h c (withdrawConv h (discardDeliveries h (leaveShift h
        (returnCells (c.journal.map JRec.cell) s))))) := by
  unfold vacate
  rw [hc]
  exact grantAll_nil (leaveShift_queue_nil (s := returnCells _ s) h hq)

theorem eraseConv_conv (h j : Nat) (s : State) : (eraseConv h s).conv j = if h = j then none else s.conv j :=
  KMap.get?_erase _ _ _

/-- The contents of a cell that is not returned stay (R27). -/
theorem returnCells_cell {l : List Nat} {n : Nat} (s : State) (hn : n ∉ l) :
    KMap.get? (returnCells l s).rts.cells n = KMap.get? s.rts.cells n := by
  show KMap.get? (forEach l (fun n m => KMap.erase m n) s.rts.cells) n = _
  generalize s.rts.cells = m
  induction l generalizing m with
  | nil => rfl
  | cons a l ih =>
    rw [List.mem_cons, not_or] at hn
    show KMap.get? (forEach l (fun n m => KMap.erase m n) (KMap.erase m a)) n = _
    rw [ih hn.2, KMap.get?_erase, if_neg (Ne.symm hn.1)]

/-- The delivery queue's mark after a conversation's entries left it (R54, R61). -/
theorem discardDeliveries_tx (h : Nat) (s : State) :
    (s.dlq.entries = [] → (discardDeliveries h s).dlq.tx = s.dlq.tx) ∧
      ∀ e l, s.dlq.entries = e :: l →
        (discardDeliveries h s).dlq.tx = if s.dlq.tx = .head ∧ e.handle = h then .orphaned else s.dlq.tx := by
  unfold discardDeliveries
  refine ⟨fun he => ?_, fun e l he => ?_⟩
  · cases ht : s.dlq.tx <;> simp [he]
  · cases ht : s.dlq.tx <;> simp [he]

/-- The frozen record of a handle holds CLOSED and the snapshot (R175), and its live set is empty. -/
theorem freezeClosing_closing (h : Nat) (c : Conv) (s : State) :
    ∃ z, KMap.get? (freezeClosing h c s).ntu.closing h = some z ∧ .closed ∈ z.reasons ∧
      z.snapshot = c.snapshotAs none := by
  refine ⟨_, KMap.get?_set_same _ _ _, ?_, rfl⟩
  have hset : Reason.closed ∈ insertIn Reason.all .closed (reasonsAt s.ntu.convs h) :=
    (mem_insertIn_reason ..).2 (.inl rfl)
  cases KMap.get? s.ntu.closing h with
  | none => exact hset
  | some old => simp [unionIn, mem_reason_all, hset]

theorem freezeClosing_reasons (h j : Nat) (c : Conv) (s : State) :
    reasonsAt (freezeClosing h c s).ntu.convs j = if h = j then [] else reasonsAt s.ntu.convs j := by
  show (KMap.get? (KMap.erase s.ntu.convs h) j).getD [] = _
  rw [KMap.get?_erase]
  split <;> rfl

/-- Becoming VACANT takes the record's own frames out of the queues, and no other (R1). -/
theorem vacate_path {s : State} {h : Nat} {c : Conv} (hc : s.conv h = some c) (hq : s.she.queue = []) (p : Path) :
    (vacate h s).path p = (s.path p).without h := by
  rw [vacate_eq hc hq]
  exact withdrawConv_path h _ p

/-- Settles O59: both operations are taken step by step, and each field is read off the step that writes it. -/
theorem lapsingAndBecomingVacant : Obligations.LapsingAndBecomingVacant := by
  intro s h c hc hq
  refine ⟨fun hl why => lapse_lapsed hc hl hq why, fun hl why => ⟨_, rfl, ?_⟩, _, rfl, ?_⟩
  · rw [lapse_live hc hl hq why]
    refine ⟨?_, fun j hj => State.conv_withConv_other s _ hj, ?_, rfl, rfl,
      fun j hj => reasonsAt_raiseConv_other _ _ hj, leaveShift_slots h _,
      fun k sl hs hne => leaveShift_slot (s := s.withConv h _) hs hne, leaveShift_queue_nil (s := s.withConv h _) h hq,
      fun p => withdrawConv_path h _ p, rfl, rfl, rfl, rfl, rfl⟩
    · rw [← makeUnsure_eq]
      exact State.conv_withConv_same s h (c.lapsedBy why)
    · rw [mem_reasonsAt_raiseConv]
      exact .inl rfl
  · rw [vacate_eq hc hq]
    refine ⟨(eraseConv_conv ..).trans (if_pos rfl), fun j hj => (eraseConv_conv ..).trans (if_neg hj.symm), rfl,
      fun n hn => returnCells_cell s hn, fun j hj => (freezeClosing_reasons ..).trans (if_neg hj.symm), rfl,
      (discardDeliveries_tx h _).1, (discardDeliveries_tx h _).2, leaveShift_slots h _,
      fun k sl hs hne => leaveShift_slot (s := returnCells _ s) hs hne, leaveShift_queue_nil (s := returnCells _ s) h hq,
      fun p => withdrawConv_path h _ p, rfl, rfl, rfl, rfl, rfl, freezeClosing_closing h c _,
      (freezeClosing_reasons ..).trans (if_pos rfl)⟩

end Sys2Proof.Machine
end

section
/-! PROOFS. OPEN and CLOSE on a ready link, and the expiries of the open and the close timer. -/

namespace Sys2Proof.Machine

/-! ## Open attempts -/

/-- An open attempt writes the attempt and its timer, and puts an OPEN frame to class 2 of its path where the peer has a link
address there (R7, R86). -/
theorem openAttempt_eq {s : State} {h : Nat} {c : Conv} {e : Peer} (hc : s.conv h = some c)
    (he : s.peer c.peer = some e) (p : Path) (n : Nat) :
    ∃ r, openAttempt h p n s =
        (s.withConv h
          { c with
            openAttempt := some (p, n)
            openTimer := some (s.stc.time + s.stc.openTimeout * 1000) }).withPath p r ∧
      r.emptied = (s.path p).emptied ∧ ((e.links.get p).link = none → r = s.path p) ∧
      ∀ a, (e.links.get p).link = some a →
        r = { s.path p with
          class2 :=
            if (∃ f ∈ (s.path p).class2, f.body = .openFrame ∧ f.srcHandle = some h) ∨ 64 ≤ (s.path p).class2.length then
              (s.path p).class2
            else (s.path p).class2 ++ [answerTo e a (some h) none 0 .openFrame (some h)] } := by
  obtain ⟨w, hw⟩ : ∃ w, w = s.withConv h
      { c with openAttempt := some (p, n), openTimer := some (s.stc.time + s.stc.openTimeout * 1000) } := ⟨_, rfl⟩
  have hpath : w.path p = s.path p := by
    rw [hw]
    rfl
  have hopen : openAttempt h p n s =
      queueOpt (queue2 p) (s.frameTo c.peer p (some h) none 0 .openFrame (some h)) w := by
    rw [hw]
    unfold openAttempt
    rw [hc]
    rfl
  rw [hopen, ← hw, ← hpath]
  cases hl : (e.links.get p).link with
  | none =>
    rw [frameTo_unlinked (by simp [State.linkOn, he, hl])]
    exact ⟨w.path p, (w.withPath_self p).symm, rfl, fun _ => rfl, fun a ha => nomatch ha⟩
  | some a =>
    rw [frameTo_present he hl]
    refine ⟨_, queue2_open p w rfl, rfl, fun hn => absurd hn (by simp), fun b hb => ?_⟩
    cases hb
    rfl

/-- The schedule goes on with the first usable path of those that remain (R7). -/
theorem openFrom_usable {s : State} {h : Nat} {c : Conv} {rest : List Path} {p : Path} (hc : s.conv h = some c)
    (hp : rest.find? (s.usable c.peer) = some p) : openFrom h rest s = openAttempt h p 1 s := by
  unfold openFrom
  rw [hc]
  simp only [hp]

/-- Without a usable path among those that remain the conversation lapses (R7). -/
theorem openFrom_none {s : State} {h : Nat} {c : Conv} {rest : List Path} (hc : s.conv h = some c)
    (hp : rest.find? (s.usable c.peer) = none) : openFrom h rest s = lapse h .openFailed s := by
  unfold openFrom
  rw [hc]
  simp only [hp]

/-! ## OPEN -/

theorem optInRange_iff (lo hi : Nat) (o : Option Nat) : optInRange lo hi o = true ↔ ∀ v ∈ o, lo ≤ v ∧ v ≤ hi := by
  cases o <;> simp [optInRange, inRange]

/-- The four settings are accepted in their ranges (Table 1-1). -/
theorem settingsOk_iff (cap ack retry holdOff : Option Nat) :
    settingsOk cap ack retry holdOff = true ↔
      (∀ v ∈ cap, 1 ≤ v ∧ v ≤ 64) ∧ (∀ v ∈ ack, 10 ≤ v ∧ v ≤ 2000) ∧ (∀ v ∈ retry, v ≤ 7) ∧
        ∀ v ∈ holdOff, v ≤ 250 := by
  simp only [settingsOk, Bool.and_eq_true, optInRange_iff, Nat.zero_le, true_and, and_assoc]

theorem configured_iff (s : State) : s.configured = true ↔ ¬ (s.stc.nodeId = 0 ∨ s.stc.frameType = 0) := by
  simp [State.configured]

/-- Settles O14: the checks are taken in the order of `ownOpen`; past them the record is the fresh one with its first
attempt. -/
theorem openIsCheckedAndAccepted : Obligations.OpenIsCheckedAndAccepted := by
  refine ⟨settingsOk_iff, ?_⟩
  intro tag a s hwf hs
  have hfits : (Request.openConv a).fits = true := by
    simp only [Instr.wellFormed, Bool.and_eq_true] at hwf
    exact hwf.2
  have hown : ∀ t res l, ownOpen a s.hunting = ⟨t, res, l⟩ → RepliesWith (.openConv tag a) s tag 1 res l t :=
    fun _ _ _ hx => repliesWith_of_own (r := .openConv a) rfl hfits hs hx
  split
  · rename_i h0
    have hcf : s.hunting.configured = false := by
      rw [Bool.eq_false_iff, Ne, configured_iff]
      exact not_not.2 h0
    exact hown _ _ _ (by simp only [ownOpen, hcf]; rfl)
  rename_i h0
  have hcf : s.hunting.configured = true := (configured_iff s.hunting).2 h0
  split
  · rename_i hv
    have hv' : s.hunting.lowestVacant = none := hv
    exact hown _ _ _ (by simp only [ownOpen, hcf, hv']; rfl)
  rename_i h hv
  have hv' : s.hunting.lowestVacant = some h := hv
  split
  · rename_i hp
    have hp' : (if a.slot < Config.peerSlots then s.hunting.peer a.slot else none) = none := hp
    exact hown _ _ _ (by simp only [ownOpen, hcf, hv', hp']; rfl)
  rename_i e hp
  have hp' : (if a.slot < Config.peerSlots then s.hunting.peer a.slot else none) = some e := hp
  split
  · rename_i hl
    exact hown _ _ _ (by simp only [ownOpen, hcf, hv', hp', hl]; rfl)
  rename_i prefs hl
  split
  · rename_i hset
    exact hown _ _ _ (by simp only [ownOpen, hcf, hv', hp', hl, hset]; rfl)
  rename_i hset
  rw [Bool.not_eq_false] at hset
  split
  · rename_i hu
    have hany : prefs.any (s.hunting.usable a.slot) = false := by
      rw [List.any_eq_false]
      exact List.find?_eq_none.1 hu
    exact hown _ _ _ (by simp only [ownOpen, hcf, hv', hp', hl, hset, hany]; rfl)
  rename_i p hu
  have hany : prefs.any (s.hunting.usable a.slot) = true :=
    List.any_eq_true.2 ⟨p, List.mem_of_find?_eq_some hu, List.find?_some hu⟩
  have he : s.peer a.slot = some e := by
    split at hp
    · exact hp
    · cases hp
  obtain ⟨d, hd⟩ : ∃ d, d = freshConv a.slot .opener prefs (a.cap.getD 16) (a.ackInterval.getD 100)
      (a.retryLimit.getD 2) (a.holdOff.getD 20) := ⟨_, rfl⟩
  have hdp : d.peer = a.slot := by
    rw [hd]
    rfl
  obtain ⟨w, hw⟩ : ∃ w, w = s.hunting.withConv h d := ⟨_, rfl⟩
  have hwd : w.conv h = some d := by
    rw [hw]
    exact State.conv_withConv_same _ h d
  have hwe : w.peer d.peer = some e := by
    rw [hdp, hw]
    exact he
  obtain ⟨r, hr, hre, hr0, hr1⟩ := openAttempt_eq hwd hwe p 1
  have hacc : ownOpen a s.hunting = ⟨openAttempt h p 1 w, .accepted, octetsOf 2 h⟩ := by
    rw [← openFrom_usable hwd (rest := prefs) (by rw [hdp, hw]; exact hu), hw, hd]
    simp only [ownOpen, hcf, hv', hp', hl, hset, hany]
    rfl
  have hrep : RepliesWith (.openConv tag a) s tag 1 .accepted (octetsOf 2 h) (openAttempt h p 1 w) :=
    hown _ _ _ hacc
  rw [hr, hw, State.withConv_withConv] at hrep
  rw [hd] at hrep
  refine ⟨_, _, hrep, rfl, rfl, rfl, rfl, rfl, rfl, rfl, rfl, rfl, rfl, rfl, rfl, rfl, rfl, rfl, rfl, rfl, rfl, rfl,
    rfl, rfl, rfl, rfl, rfl, rfl, rfl, rfl, rfl, rfl, rfl, rfl, rfl, rfl, rfl, rfl, rfl, rfl, rfl, rfl, rfl,
    fun q hq => ?_, ?_, fun h0 => ?_, fun l hl => ?_⟩
  · exact (State.path_withPath ..).trans (if_neg hq)
  · rw [State.path_withPath_same, hre, hw]
    rfl
  · rw [State.path_withPath_same, hr0 h0, hw]
    rfl
  · rw [State.path_withPath_same, hr1 l hl, hw]
    rfl

end Sys2Proof.Machine
end

section
/-! PROOFS. CLOSE on a ready link, the CLOSE frame, and the expiries of the open and the close timer. -/

namespace Sys2Proof.Machine

/-! ## The CLOSE frame -/

/-- Where the CLOSE frame's conditions do not hold, nothing changes (R17). -/
theorem checkClose_idle {t : State} {h : Nat} {c : Conv} (hc : t.conv h = some c)
    (hn : c.state ≠ .carrying ∨ c.closeStage ≠ .draining ∨ hasSent c.journal = true ∨ hasWaiting c.journal = true) :
    checkClose h t = t := by
  have hf : (c.state = .carrying && decide (c.closeStage = .draining) && !hasSent c.journal &&
      !hasWaiting c.journal) = false := by
    rcases hn with hn | hn | hn | hn <;> simp [hn]
  unfold checkClose
  rw [hc]
  simp only [hf, Bool.false_eq_true, if_false]

/-- The CLOSE frame of a DRAINING conversation, with its timer (R17, R86). -/
theorem checkClose_sends {t : State} {h : Nat} {c : Conv} {p : Path} {e : Peer} {a : LinkAddr} (hc : t.conv h = some c)
    (h1 : c.state = .carrying) (h2 : c.closeStage = .draining) (h3 : hasSent c.journal = false)
    (h4 : hasWaiting c.journal = false) (hp : c.active = some p) (he : t.peer c.peer = some e)
    (ha : (e.links.get p).link = some a) :
    checkClose h t =
      queue2 p (answerTo e a (some h) c.peerHandle 0 (.close c.highest) (some h))
        (t.withConv h
          { c with closeStage := .closeSent, closeTimer := some (t.stc.time + c.ackInterval * 1000) }) := by
  have he' : (t.withConv h { c with closeStage := .closeSent, closeTimer := some (t.after c.ackInterval) }).peer c.peer =
      some e := he
  unfold checkClose
  rw [hc]
  simp only [h1, h2, h3, h4, hp, decide_true, Bool.not_false, Bool.and_self, if_true]
  exact congrArg (queueOpt (queue2 p) · _) (frameTo_present he' ha ..)

/-- The highest sequence assigned (R35). -/
theorem highest_of_nextSeq (c : Conv) :
    (∀ n, c.nextSeq = some n → c.highest = n - 1) ∧ (c.nextSeq = none → c.highest = 4294967295) :=
  ⟨fun n hn => by simp [Conv.highest, hn], fun hn => by simp [Conv.highest, hn, Config.maxSeq]⟩

/-! ## CLOSE -/

/-- CLOSE ABORT: the ABANDON where it can be sent, then the record becomes VACANT (R20). -/
theorem closeAborting_silent {s : State} {h : Nat} {c : Conv}
    (hn : c.peerHandle = none ∨ c.prefs.find? (s.usable c.peer) = none) :
    closeAborting h c s = ⟨vacate h s, .done, []⟩ := by
  unfold closeAborting
  rcases hn with hn | hn
  · rw [hn]
  · rw [hn]
    cases c.peerHandle <;> rfl

theorem closeAborting_abandons {s : State} {h ph : Nat} {c : Conv} {p : Path} (hph : c.peerHandle = some ph)
    (hp : c.prefs.find? (s.usable c.peer) = some p) :
    closeAborting h c s =
      ⟨vacate h (queueOpt (queue2 p) (s.frameTo c.peer p (some h) (some ph) 0 .abandon none) s), .done, []⟩ := by
  unfold closeAborting
  rw [hph, hp]

/-- Settles O15: the reply follows the checks of `ownClose`; the queues follow `vacate` and `checkClose`. -/
theorem closeIsDecidedByModeAndState : Obligations.CloseIsDecidedByModeAndState := by
  refine ⟨fun tag h s hwf hs => ?_, fun h c t hc hq q => vacate_path hc hq q, fun h c t hc => ?_⟩
  · have hh : WellFormed.fits 16 h = true := by
      simp only [Instr.wellFormed, Bool.and_eq_true] at hwf
      exact hwf.2
    have hgraceful : ∀ t r l, ownClose h 1 s.hunting = ⟨t, r, l⟩ →
        RepliesWith (.closeGraceful tag h) s tag 2 r l t := fun _ _ _ hx =>
      repliesWith_of_own (r := .close h 1) rfl (by rw [Request.fits, hh]; rfl) hs hx
    have habort : ∀ t r l, ownClose h 2 s.hunting = ⟨t, r, l⟩ →
        RepliesWith (.closeAbort tag h) s tag 2 r l t := fun _ _ _ hx =>
      repliesWith_of_own (r := .close h 2) rfl (by rw [Request.fits, hh]; rfl) hs hx
    split
    · rename_i hrec
      have hrec' : s.hunting.recordOf h = none := hrec
      exact ⟨hgraceful _ _ _ (by simp only [ownClose, hrec']; rfl),
        habort _ _ _ (by simp only [ownClose, hrec']; rfl)⟩
    rename_i c hrec
    have hrec' : s.hunting.recordOf h = some c := hrec
    have hmode : inRange 1 2 1 = true ∧ inRange 1 2 2 = true := ⟨rfl, rfl⟩
    split
    · rename_i hl
      exact ⟨hgraceful _ _ _ (by simp [ownClose, hrec', hmode, hl]),
        habort _ _ _ (by simp [ownClose, hrec', hmode, hl])⟩
    rename_i hl
    have h1 : ownClose h 1 s.hunting = closeGracefully h c s.hunting := by simp [ownClose, hrec', hmode, hl]
    have h2 : ownClose h 2 s.hunting = closeAborting h c s.hunting := by simp [ownClose, hrec', hmode, hl]
    refine ⟨?_, ?_⟩
    · split
      · rename_i ho
        exact hgraceful _ _ _ (by rw [h1, closeGracefully, if_pos ho]; rfl)
      · rename_i ho
        exact hgraceful _ _ _ (by rw [h1, closeGracefully, if_neg ho]; rfl)
    · split
      · rename_i ph p hph hp
        have hab := h2.trans (closeAborting_abandons hph hp)
        refine ⟨fun hlink => ?_, fun e a he ha => ?_⟩
        · rw [frameTo_unlinked (s := s.hunting) hlink] at hab
          exact habort _ _ _ hab
        · rw [frameTo_present (s := s.hunting) he ha, queueOpt, queue2_once p s.hunting rfl] at hab
          exact habort _ _ _ hab
      · rename_i hno
        have hn : c.peerHandle = none ∨ c.prefs.find? (s.hunting.usable c.peer) = none := by
          cases hph : c.peerHandle with
          | none => exact .inl rfl
          | some ph =>
            right
            cases hp : c.prefs.find? (s.hunting.usable c.peer) with
            | none => rfl
            | some p => exact absurd hp (hno ph p hph)
        exact habort _ _ _ (h2.trans (closeAborting_silent hn))
  · refine ⟨(highest_of_nextSeq c).1, (highest_of_nextSeq c).2, checkClose_idle hc,
      fun h1 h2 h3 h4 p e a hp he ha f hf => ?_⟩
    rw [checkClose_sends hc h1 h2 h3 h4 hp he ha, ← hf, queue2_repeated p _ (by rw [hf]; rfl) (by rw [hf]; rfl)]
    rfl

/-! ## The open timer -/

/-- The paths that follow a path in a list are those behind its first place in it (R7). -/
theorem pathsAfter_append {pre : List Path} {p : Path} (hp : p ∉ pre) (post : List Path) :
    pathsAfter (pre ++ p :: post) p = post := by
  unfold pathsAfter
  rw [List.dropWhile_append_of_pos]
  · simp
  · intro q hq
    simpa using fun e : q = p => hp (e ▸ hq)

/-- With RSTN high a timer's command is its taking. -/
theorem takes_of_event {c : Instr} {s t : State} {f : State → State} (hc : exec c s = .next (event f s))
    (hs : s.inReset = false) (ht : f s = t) : Takes c s t := by
  unfold Takes
  rw [hc, event_running f hs, ht]

theorem openTimerEnds_eq {s : State} {h x n : Nat} {c : Conv} {p : Path} (hc : s.conv h = some c)
    (hx : c.openTimer = some x) (hp : c.openAttempt = some (p, n)) :
    openTimerEnds h s = nextAttempt h c p n (s.atTime x) := by
  unfold openTimerEnds
  rw [hc]
  simp only [hx, hp]
  rfl

/-! ## The close timer -/

theorem closeTimerEnds_eq {s : State} {h x : Nat} {c : Conv} (hc : s.conv h = some c) (hx : c.closeTimer = some x) :
    closeTimerEnds h s =
      if c.retryCount < c.retryLimit then closeAction h (countRound h c (s.atTime x))
      else shiftCause true h (s.atTime x) := by
  unfold closeTimerEnds
  rw [hc]
  simp only [hx]
  rfl

/-- The count of a retry after the score of the expiry (R17, R38). -/
theorem countRound_eq {t w : State} {h : Nat} {c b : Conv} {p : Path} (hp : c.active = some p) (hw : w = addScore p 16 t)
    (hb : w.conv h = some b) : countRound h c t = w.withConv h { b with retryCount := b.retryCount + 1 } := by
  unfold countRound scoreActive
  rw [hp]
  simp only [← hw]
  exact updConv_eq hb _

/-- Off its path a conversation sends no CLOSE (log entry 15). -/
theorem closeAction_idle {t : State} {h : Nat} {c : Conv} (hc : t.conv h = some c) (hp : c.active = none) :
    closeAction h t = t := by
  unfold closeAction
  rw [hc]
  simp only [hp]

/-- The CLOSE goes out again and its timer starts again (R17). -/
theorem closeAction_sends {t : State} {h x : Nat} {c : Conv} {p : Path} {e : Peer} {a : LinkAddr}
    (hc : t.conv h = some c) (hp : c.active = some p) (hx : c.closeTimer = some x) (he : t.peer c.peer = some e)
    (ha : (e.links.get p).link = some a) :
    closeAction h t =
      queue2 p (answerTo e a (some h) c.peerHandle 0 (.close c.highest) (some h))
        (t.withConv h { c with closeTimer := some (t.stc.time + c.ackInterval * 1000) }) := by
  unfold closeAction
  rw [hc]
  simp only [hp, hx]
  rw [frameTo_present he ha]
  rfl

/-- Settles O53: each expiry is its own operation on the state at the expiry's time. -/
theorem openAndCloseTimersRepeatTheirFrames : Obligations.OpenAndCloseTimersRepeatTheirFrames := by
  refine ⟨fun pre post p hp => pathsAfter_append hp post, fun s h c hr hc => ⟨?_, ?_, ?_⟩⟩
  · intro x p n hx hp
    have ht : ∀ t, nextAttempt h c p n (s.atTime x) = t → Takes (.openTimerExpiry h) s t := fun t ht =>
      takes_of_event (f := openTimerEnds h) rfl hr ((openTimerEnds_eq hc hx hp).trans ht)
    have hcx : (s.atTime x).conv h = some c := hc
    refine ⟨fun h1 hu => ht _ ?_, fun hno => ⟨fun q hq => ht _ ?_, fun hq => ht _ ?_⟩⟩
    · rw [nextAttempt, if_pos]
      rw [h1, show (s.atTime x).usable c.peer p = true from hu]
      rfl
    all_goals
      have hcond : ¬ (decide (n = 1) && (s.atTime x).usable c.peer p) = true := by
        rcases hno with hno | hno
        · simp [hno]
        · simp [show (s.atTime x).usable c.peer p = false from hno]
      rw [nextAttempt, if_neg hcond]
    · exact openFrom_usable hcx hq
    · exact openFrom_none hcx hq
  · intro q n e a u he ha hu
    obtain ⟨r, hr', -, -, hr1⟩ := openAttempt_eq hc he q n
    rw [hr'] at hu
    subst hu
    refine ⟨State.conv_withConv_same s h _, fun j hj => State.conv_withConv_other s _ hj, fun hno hroom => ?_⟩
    rw [State.path_withPath_same, hr1 a ha]
    refine if_neg ?_
    rintro (⟨f, hf, hb, hs⟩ | hl)
    · exact hno f hf (by simp [QFrame.isOpen, hb]) hs
    · omega
  · intro x hx
    have ht : ∀ t, closeTimerEnds h s = t → Takes (.closeTimerExpiry h) s t := fun t ht =>
      takes_of_event (f := closeTimerEnds h) rfl hr ht
    rw [closeTimerEnds_eq hc hx] at ht
    refine ⟨fun hl => ht _ (if_neg (by omega)), fun hl p w hp hw => ⟨fun hwc e a f he ha hf => ?_, fun b hb hn => ?_⟩⟩
    · refine ht _ ((if_pos hl).trans ?_)
      have hprt : w.prt = s.prt := by
        rw [hw]
        exact addScore_prt p 16 (s.atTime x)
      have hstc : w.stc = (s.atTime x).stc := by
        rw [hw]
        exact State.outer_stc (addScore_outer p 16 (s.atTime x))
      have hf' : f = answerTo e a (some h) c.peerHandle 0
          (.close ({ c with retryCount := c.retryCount + 1 } : Conv).highest) (some h) := hf
      rw [countRound_eq hp hw hwc,
        closeAction_sends (c := { c with retryCount := c.retryCount + 1 }) (State.conv_withConv_same w h _) hp hx ((State.peer_congr hprt _).trans he) ha,
        State.withConv_withConv, ← hf', queue2_repeated p _ (by rw [hf]; rfl) (by rw [hf]; rfl)]
      rw [show (w.withConv h { c with retryCount := c.retryCount + 1 }).stc = (s.atTime x).stc from hstc]
      rfl
    · refine ht _ ((if_pos hl).trans ?_)
      rw [countRound_eq hp hw hb]
      exact closeAction_idle (State.conv_withConv_same w h _) hn

end Sys2Proof.Machine
end

section
/-! PROOFS. The reading requests and SCAN on a ready link. -/

namespace Sys2Proof.Machine

/-! ## Reading -/

theorem running_eq (t : AckTimer) : t.running = decide (t ≠ .stopped) := by
  cases t <;> simp [AckTimer.running]

theorem toList_flatMap {α β : Type} (t : PerPath α) (f : α → List β) :
    t.toList.flatMap f = Path.all.flatMap fun p => f (t.get p) := rfl

theorem activeOn_eq (s : State) (p : Path) (h : Nat) :
    s.activeOn p h = (s.conv h).any fun c => decide (c.active = some p) := by
  unfold State.activeOn
  cases s.conv h <;> rfl

/-- The octets of a VACANT record: its state, and zeros (R159, log entry 33). -/
theorem vacantOctets_eq : vacantOctets = 1#8 :: List.replicate 64 0#8 := rfl

theorem readConversation_out {s : State} {h : Nat} (hh : ¬ h < 256) :
    ownReadConversation h s = ⟨s, .badHandle, []⟩ := if_neg (c := h < Config.conversations) hh

theorem readConversation_vacant {s : State} {h : Nat} (hh : h < 256) (hc : s.conv h = none) :
    ownReadConversation h s = ⟨s, .done, 1#8 :: List.replicate 64 0#8⟩ := by
  refine (if_pos (c := h < Config.conversations) hh).trans ?_
  rw [hc, vacantOctets_eq]

theorem readConversation_some {s : State} {h : Nat} {c : Conv} (hh : h < 256) (hc : s.conv h = some c) :
    ownReadConversation h s = ⟨s, .done, c.fieldOctets ++ s.convItems h c⟩ := by
  refine (if_pos (c := h < Config.conversations) hh).trans ?_
  rw [hc]

theorem readPeer_out {s : State} {k : Nat} (hk : ¬ k < 32) : ownReadPeer k s = ⟨s, .badHandle, []⟩ :=
  if_neg (c := k < Config.peerSlots) hk

theorem readPeer_empty {s : State} {k : Nat} (hk : k < 32) (hp : s.peer k = none) :
    ownReadPeer k s = ⟨s, .done, [0#8]⟩ := by
  refine (if_pos (c := k < Config.peerSlots) hk).trans ?_
  rw [hp]
  rfl

theorem readPeer_present {s : State} {k : Nat} {e : Peer} (hk : k < 32) (hp : s.peer k = some e) :
    ownReadPeer k s = ⟨s, .done, s.peerOctets k e⟩ := by
  refine (if_pos (c := k < Config.peerSlots) hk).trans ?_
  rw [hp]

/-- Settles O21: each request is read-only by its owner's definition, and its octets are the named codings written out. -/
theorem readingChangesNothing : Obligations.ReadingChangesNothing := by
  intro tag s htag hs
  refine ⟨fun h hh => ⟨?_, ?_⟩, fun k hk => ?_, fun n hn => ?_⟩
  · have hown : ∀ res l, ownReadConversation h s.hunting = ⟨s.hunting, res, l⟩ →
        RepliesWith (.readConversation tag h) s tag 8 res l s.hunting := fun _ _ ho =>
      repliesWith_of_own (r := .readConversation h) rfl (fits_iff.2 hh) hs ho
    by_cases hlt : h < 256
    · rw [if_pos hlt]
      cases hc : s.conv h with
      | none => exact hown _ _ (readConversation_vacant (s := s.hunting) hlt hc)
      | some c =>
        refine hown _ _ ((readConversation_some (s := s.hunting) hlt hc).trans ?_)
        simp only [State.convItems, running_eq]
        rfl
    · rw [if_neg hlt]
      exact hown _ _ (readConversation_out hlt)
  · have hown : ∀ res l, ownReadJournal h s.hunting = ⟨s.hunting, res, l⟩ →
        RepliesWith (.readJournal tag h) s tag 9 res l s.hunting := fun _ _ ho =>
      repliesWith_of_own (r := .readJournal h) rfl (fits_iff.2 hh) hs ho
    split
    · rename_i hrec
      exact hown _ _ (by rw [ownReadJournal, show s.hunting.recordOf h = none from hrec]; rfl)
    · rename_i c hrec
      exact hown _ _ (by rw [ownReadJournal, show s.hunting.recordOf h = some c from hrec]; rfl)
  · have hown : ∀ res l, ownReadPeer k s.hunting = ⟨s.hunting, res, l⟩ →
        RepliesWith (.readPeer tag k) s tag 13 res l s.hunting := fun _ _ ho =>
      repliesWith_of_own (r := .readPeer k) rfl (fits_iff.2 hk) hs ho
    by_cases hlt : k < 32
    · rw [if_pos hlt]
      cases hp : s.peer k with
      | none => exact hown _ _ (readPeer_empty (s := s.hunting) hlt hp)
      | some e =>
        refine hown _ _ ((readPeer_present (s := s.hunting) hlt hp).trans ?_)
        simp only [State.peerOctets, toList_flatMap]
        rfl
    · rw [if_neg hlt]
      exact hown _ _ (readPeer_out hlt)
  · have hown : ∀ res l, ownReadPath n s.hunting = ⟨s.hunting, res, l⟩ →
        RepliesWith (.readPath tag n) s tag 18 res l s.hunting := fun _ _ ho =>
      repliesWith_of_own (r := .readPath n) rfl (fits_iff.2 hn) hs ho
    cases hp : Path.ofNum n with
    | none => exact hown _ _ (by rw [ownReadPath, hp]; rfl)
    | some p =>
      intro r hr
      subst hr
      refine hown _ _ ?_
      rw [ownReadPath, hp]
      simp only [State.pathOctets, show s.hunting.activeOn p = _ from funext (activeOn_eq s.hunting p)]
      rfl

/-! ## SCAN -/

theorem mem_scanWalk (start dir h : Nat) :
    h ∈ scanWalk start dir ↔ h < 256 ∧ if dir = 1 then start ≤ h else h ≤ start := by
  unfold scanWalk
  split <;> simp [Config.conversations]

/-- A SCAN walks upward or downward, no handle twice (R25). -/
theorem scanWalk_pairwise (start dir : Nat) :
    (scanWalk start dir).Pairwise fun a b => if dir = 1 then a < b else b < a := by
  unfold scanWalk
  split
  · exact List.pairwise_lt_range.filter _
  · rw [List.pairwise_reverse]
    exact List.pairwise_lt_range.filter _

theorem scanMatch_iff (s : State) (filter : List Nat) (h : Nat) :
    s.scanMatch filter h = true ↔ ∃ c, s.conv h = some c ∧ codeOfState (some c.state) ∈ filter := by
  unfold State.scanMatch
  cases s.conv h <;> simp

theorem stateOfFilterCode_isSome (c : Nat) : (stateOfFilterCode c).isSome = true ↔ 2 ≤ c ∧ c ≤ 8 := by
  constructor
  · intro h
    by_contra hout
    rw [stateOfFilterCode] at h
    · cases h
    all_goals (intro e; omega)
  · rintro ⟨h2, h8⟩
    interval_cases c <;> rfl

theorem scanOk_iff (start count dir : Nat) (filter : List Nat) :
    scanOk start count dir filter = true ↔
      start ≤ 255 ∧ 1 ≤ count ∧ count ≤ 16 ∧ (dir = 1 ∨ dir = 2) ∧ filter ≠ [] ∧ ∀ c ∈ filter, 2 ≤ c ∧ c ≤ 8 := by
  have hdir : (1 ≤ dir ∧ dir ≤ 2) ↔ (dir = 1 ∨ dir = 2) := by omega
  simp only [scanOk, inRange, Bool.and_eq_true, decide_eq_true_eq, List.all_eq_true, stateOfFilterCode_isSome, hdir,
    Nat.zero_le, true_and, and_assoc]

/-- A member of a sorted list is among the first `n`, or those are `n` in number and all before it. -/
theorem mem_take_or_before {α : Type} {r : α → α → Prop} {l : List α} (hl : l.Pairwise r) (n : Nat) {x : α}
    (hx : x ∈ l) : x ∈ l.take n ∨ (l.take n).length = n ∧ ∀ y ∈ l.take n, r y x := by
  by_cases hin : x ∈ l.take n
  · exact .inl hin
  right
  have hdrop : x ∈ l.drop n := by
    rw [← List.take_append_drop n l, List.mem_append] at hx
    exact hx.resolve_left hin
  rw [← List.take_append_drop n l, List.pairwise_append] at hl
  obtain ⟨-, -, hbefore⟩ := hl
  have hlen : n < l.length := by
    by_contra hge
    rw [List.drop_eq_nil_of_le (by omega)] at hdrop
    cases hdrop
  exact ⟨by rw [List.length_take]; omega, fun y hy => hbefore y hy x hdrop⟩

/-- The octets of a SCAN's results, from the handles found (R25, R159). -/
theorem ownScan_eq {start count dir : Nat} {filter : List Nat} {s : State} (hok : scanOk start count dir filter = true)
    {found : List Nat} (hf : found = ((scanWalk start dir).filter (s.scanMatch filter)).take count) :
    ownScan start count dir filter s =
      ⟨s, .done, octetsOf 1 found.length ++ found.flatMap (fun h => ((s.conv h).map (scanSummary h)).getD []) ++
        octetsOfOptNum 2 (if found.length = count then found.getLast?.bind (scanContinue dir) else none)⟩ := by
  simp only [ownScan, hok, ← hf]
  rfl

/-- Settles O22: what is found is the first of the matching handles of a sorted walk. -/
theorem scanReportsMatchingHandlesInOrder : Obligations.ScanReportsMatchingHandlesInOrder := by
  intro tag start count dir filter s hwf hs
  have hfits : (Request.scan start count dir filter).fits = true := by
    simp only [Instr.wellFormed, Bool.and_eq_true] at hwf
    obtain ⟨⟨⟨⟨-, h1⟩, h2⟩, h3⟩, h4⟩ := hwf
    simp only [Request.fits, h1, h2, h3, h4, Bool.and_self]
  have hown : ∀ res l, ownScan start count dir filter s.hunting = ⟨s.hunting, res, l⟩ →
      RepliesWith (.scan tag start count dir filter) s tag 10 res l s.hunting := fun _ _ ho =>
    repliesWith_of_own (r := .scan start count dir filter) rfl hfits hs ho
  split
  · rename_i hcond
    have hok := (scanOk_iff ..).2 hcond
    obtain ⟨found, hf⟩ : ∃ l, l = ((scanWalk start dir).filter (s.scanMatch filter)).take count := ⟨_, rfl⟩
    have hsorted : ((scanWalk start dir).filter (s.scanMatch filter)).Pairwise
        fun a b => if dir = 1 then a < b else b < a := (scanWalk_pairwise start dir).filter _
    refine ⟨found, hf, by rw [hf]; exact List.length_take_le _ _, fun h hh => ?_, ?_, fun h c hh hdir hc hst => ?_, ?_⟩
    · rw [hf] at hh
      obtain ⟨hw, hm⟩ := List.mem_filter.1 (List.mem_of_mem_take hh)
      obtain ⟨hlt, hd⟩ := (mem_scanWalk ..).1 hw
      exact ⟨hlt, hd, (scanMatch_iff ..).1 hm⟩
    · rw [hf]
      exact hsorted.sublist (List.take_sublist _ _)
    · rw [hf]
      exact mem_take_or_before hsorted count
        (List.mem_filter.2 ⟨(mem_scanWalk ..).2 ⟨hh, hdir⟩, (scanMatch_iff ..).2 ⟨c, hc, hst⟩⟩)
    · exact hown _ _ (ownScan_eq (s := s.hunting) hok hf)
  · rename_i hcond
    have hno : scanOk start count dir filter = false := by
      rw [Bool.eq_false_iff, Ne, scanOk_iff]
      exact hcond
    exact hown _ _ (by rw [ownScan, hno]; rfl)

end Sys2Proof.Machine
end

section
/-! PROOFS. OPEN frames: the repeat, the refusal, the admission, and what the displacement of R9 leaves of the record that
held the peer handle. -/

namespace Sys2Proof.Machine

/-! ## Displacement -/

/-- A record that has lost its peer handle (R9). -/
def Conv.bereft (c : Conv) : Conv := { c with peerHandle := none }

/-- The record that loses its peer handle to another (R9). -/
def Conv.displaced (c : Conv) : Conv := if c.state = .lapsed then c.bereft else c.bereft.lapsedBy .notKnown

theorem Conv.displaced_state (c : Conv) : c.displaced.state = .lapsed := by
  unfold Conv.displaced
  split
  · assumption
  · rfl

theorem Conv.displaced_peerHandle (c : Conv) : c.displaced.peerHandle = none := by
  unfold Conv.displaced
  split <;> rfl

theorem Conv.displaced_peer (c : Conv) : c.displaced.peer = c.peer := by
  unfold Conv.displaced
  split <;> rfl

/-- A second displacement finds nothing more to do (R9, R21). -/
theorem Conv.displaced_displaced (c : Conv) : c.displaced.displaced = c.displaced := by
  calc c.displaced.displaced = c.displaced.bereft := if_pos c.displaced_state
    _ = { c.displaced with peerHandle := c.displaced.peerHandle } := by rw [c.displaced_peerHandle, Conv.bereft]
    _ = c.displaced := rfl

theorem displaceOne_vacant {s : State} {j : Nat} (hc : s.conv j = none) (hq : s.she.queue = []) :
    displaceOne j s = s := by
  have hl : lapseCore j .notKnown s = s := by
    unfold lapseCore
    rw [hc]
  unfold displaceOne updConv
  rw [hc]
  show grantAll (lapseCore j .notKnown s) = s
  rw [hl, grantAll_nil hq]

theorem displaceOne_eq {s : State} {j : Nat} {c : Conv} (hc : s.conv j = some c) :
    displaceOne j s = lapse j .notKnown (s.withConv j c.bereft) := by
  unfold displaceOne
  rw [updConv_eq hc]
  rfl

theorem displaceOne_lapsed {s : State} {j : Nat} {c : Conv} (hc : s.conv j = some c) (hl : c.state = .lapsed)
    (hq : s.she.queue = []) : displaceOne j s = s.withConv j c.displaced := by
  rw [displaceOne_eq hc, Conv.displaced, if_pos hl]
  exact lapse_lapsed (State.conv_withConv_same s j c.bereft) hl hq .notKnown

theorem displaceOne_live {s : State} {j : Nat} {c : Conv} (hc : s.conv j = some c) (hl : c.state ≠ .lapsed)
    (hq : s.she.queue = []) :
    displaceOne j s = raiseConv j .lapsed (withdrawConv j (leaveShift j (s.withConv j c.displaced))) := by
  have hlive := lapse_live (State.conv_withConv_same s j c.bereft) hl hq .notKnown
  rw [displaceOne_eq hc, hlive, State.withConv_withConv, Conv.displaced, if_neg hl]

theorem displaceOne_queue_nil (j : Nat) {s : State} (hq : s.she.queue = []) : (displaceOne j s).she.queue = [] := by
  cases hc : s.conv j with
  | none => rwa [displaceOne_vacant hc hq]
  | some c =>
    by_cases hl : c.state = .lapsed
    · rw [displaceOne_lapsed hc hl hq]
      exact hq
    · rw [displaceOne_live hc hl hq]
      exact leaveShift_queue_nil (s := s.withConv j _) j hq

/-- One displacement writes one record. -/
theorem displaceOne_conv (j i : Nat) {s : State} (hq : s.she.queue = []) :
    (displaceOne j s).conv i = if i = j then (s.conv i).map Conv.displaced else s.conv i := by
  have hwrite : ∀ c, s.conv j = some c →
      (s.withConv j c.displaced).conv i = if i = j then (s.conv i).map Conv.displaced else s.conv i := by
    intro c hc
    by_cases hi : i = j
    · subst hi
      rw [State.conv_withConv_same, if_pos rfl, hc, Option.map_some]
    · rw [State.conv_withConv_other _ _ hi, if_neg hi]
  cases hc : s.conv j with
  | none =>
    rw [displaceOne_vacant hc hq]
    split
    · rename_i hi
      rw [hi, hc, Option.map_none]
    · rfl
  | some c =>
    by_cases hl : c.state = .lapsed
    · rw [displaceOne_lapsed hc hl hq]
      exact hwrite c hc
    · rw [displaceOne_live hc hl hq]
      exact hwrite c hc

theorem mem_reasonsAt_raiseConv_of_mem (j : Nat) (x : Reason) {s : State} {i : Nat} {r : Reason}
    (hr : r ∈ reasonsAt s.ntu.convs i) : r ∈ reasonsAt (raiseConv j x s).ntu.convs i := by
  by_cases hi : i = j
  · subst hi
    exact (mem_reasonsAt_raiseConv ..).2 (.inr hr)
  · rwa [reasonsAt_raiseConv_other x s hi]

/-- A displacement takes no pending reason away. -/
theorem mem_reasonsAt_displaceOne (j : Nat) {s : State} (hq : s.she.queue = []) {i : Nat} {r : Reason}
    (hr : r ∈ reasonsAt s.ntu.convs i) : r ∈ reasonsAt (displaceOne j s).ntu.convs i := by
  cases hc : s.conv j with
  | none => rwa [displaceOne_vacant hc hq]
  | some c =>
    by_cases hl : c.state = .lapsed
    · rw [displaceOne_lapsed hc hl hq]
      exact hr
    · rw [displaceOne_live hc hl hq]
      exact mem_reasonsAt_raiseConv_of_mem j .lapsed hr

/-- Displacing every record of a list: those in it are displaced, the others stand. -/
theorem displaceEach_conv (l : List Nat) (i : Nat) : ∀ {s : State}, s.she.queue = [] →
    (forEach l displaceOne s).conv i = if i ∈ l then (s.conv i).map Conv.displaced else s.conv i := by
  induction l with
  | nil => intro s _; rfl
  | cons j l ih =>
    intro s hq
    show (forEach l displaceOne (displaceOne j s)).conv i = _
    rw [ih (displaceOne_queue_nil j hq), displaceOne_conv j i hq]
    by_cases hj : i = j
    · have hidem : Conv.displaced ∘ Conv.displaced = Conv.displaced := funext Conv.displaced_displaced
      simp [hj, Option.map_map, hidem]
    · simp [hj]

/-- Every live record of the list raises LAPSED (R21). -/
theorem displaceEach_lapsed (l : List Nat) {i : Nat} {c : Conv} (hl : c.state ≠ .lapsed) : ∀ {s : State},
    s.she.queue = [] → s.conv i = some c → i ∈ l → .lapsed ∈ reasonsAt (forEach l displaceOne s).ntu.convs i := by
  induction l with
  | nil => intro s _ _ hi; cases hi
  | cons j l ih =>
    intro s hq hc hi
    show .lapsed ∈ reasonsAt (forEach l displaceOne (displaceOne j s)).ntu.convs i
    by_cases hj : i = j
    · subst hj
      have hraised : .lapsed ∈ reasonsAt (displaceOne i s).ntu.convs i := by
        rw [displaceOne_live hc hl hq]
        exact (mem_reasonsAt_raiseConv ..).2 (.inl rfl)
      exact (forEach_keeps (fun t => t.she.queue = [] ∧ Reason.lapsed ∈ reasonsAt t.ntu.convs i) displaceOne
        (fun a t ⟨h1, h2⟩ => ⟨displaceOne_queue_nil a h1, mem_reasonsAt_displaceOne a h1 h2⟩) l _
        ⟨displaceOne_queue_nil i hq, hraised⟩).2
    · exact ih (displaceOne_queue_nil j hq) (by rw [displaceOne_conv j i hq, if_neg hj, hc])
        ((List.mem_cons.1 hi).resolve_left hj)

theorem mem_holders (s : State) (k ph h j : Nat) :
    j ∈ s.handles.filter (s.holdsPeerHandle k ph h) ↔
      ∃ c, s.conv j = some c ∧ j ≠ h ∧ c.peer = k ∧ c.peerHandle = some ph := by
  rw [List.mem_filter, mem_handles]
  unfold State.holdsPeerHandle
  cases s.conv j <;> simp [and_assoc]

/-- Displacement reaches the records that hold the peer handle, and no other (R9). -/
theorem displace_conv {s : State} {j : Nat} {c : Conv} (k ph h : Nat) (hc : s.conv j = some c) (hq : s.she.queue = []) :
    (displace k ph h s).conv j =
      some (if j ≠ h ∧ c.peer = k ∧ c.peerHandle = some ph then c.displaced else c) := by
  have hmem : j ∈ s.handles.filter (s.holdsPeerHandle k ph h) ↔ j ≠ h ∧ c.peer = k ∧ c.peerHandle = some ph := by
    rw [mem_holders]
    simp [hc]
  unfold displace
  rw [displaceEach_conv _ j hq, hc]
  simp only [hmem]
  split <;> rfl

theorem displace_vacant {s : State} {j : Nat} (k ph h : Nat) (hc : s.conv j = none) (hq : s.she.queue = []) :
    (displace k ph h s).conv j = none := by
  unfold displace
  rw [displaceEach_conv _ j hq, hc]
  split <;> rfl

/-! ## Admission -/

theorem isRepeat_iff (s : State) (k ph h : Nat) : s.isRepeat k ph h = true ↔
    ∃ c, s.conv h = some c ∧ c.peer = k ∧ c.role = .acceptor ∧ c.state ≠ .lapsed ∧ c.peerHandle = some ph := by
  unfold State.isRepeat
  cases s.conv h <;> simp [and_assoc]

/-- The state with the admitted record written, OPENED-BY-PEER raised and its OPEN-REPLY put to class 1 (R14). -/
def admittedIn (h k : Nat) (e : Peer) (a : LinkAddr) (ph : Nat) (p : Path) (w : State) : State :=
  (raiseConv h .openedByPeer (w.withConv h (admitted k e ph))).withPath p
    ((w.path p).withAnswer (answerTo e a (some h) (some ph) 0 (.openReply true) (some h)))

theorem admittedIn_conv (h k : Nat) (e : Peer) (a : LinkAddr) (ph : Nat) (p : Path) (w : State) :
    (admittedIn h k e a ph p w).conv h = some (admitted k e ph) := State.conv_withConv_same w h _

theorem displace_peer (k ph h j : Nat) (s : State) : (displace k ph h s).peer j = s.peer j :=
  State.peer_congr (State.roads_prt (displace_roads k ph h s)) j

/-- An admitted conversation carries on the arrival path where that is listed and usable, and is PARKED otherwise (R14). -/
theorem admitConv_eq {s : State} {k : Nat} {p : Path} {e : Peer} {a : LinkAddr} (he : s.peer k = some e)
    (ha : (e.links.get p).link = some a) (h ph : Nat) :
    admitConv h k e ph p s =
      if s.usable k p = true ∧ p ∈ e.admitList.getD [] then
        (admittedIn h k e a ph p (displace k ph h s)).withConv h
          { admitted k e ph with active := some p, state := .carrying }
      else park h (admittedIn h k e a ph p (displace k ph h s)) := by
  have hadd : answerFrame p k (some h) (some ph) 0 (.openReply true) (some h)
      (raiseConv h .openedByPeer (setConv h (admitted k e ph) (displace k ph h s))) =
        admittedIn h k e a ph p (displace k ph h s) :=
    answerFrame_eq_withAnswer (u := raiseConv h .openedByPeer (setConv h (admitted k e ph) (displace k ph h s)))
      ((displace_peer k ph h k s).trans he) ha ..
  have hroads : (admittedIn h k e a ph p (displace k ph h s)).usable k p = s.usable k p := by
    rw [← hadd]
    refine State.roads_usable ?_ k p
    unfold answerFrame
    simp
  unfold admitConv
  simp only [hadd, hroads, Bool.and_eq_true, List.contains_iff_mem]
  split
  · rw [updConv_eq (admittedIn_conv ..)]
  · rfl

/-- Parking writes the record and raises PARKED (R8, R14). -/
theorem park_eq {s : State} {h : Nat} {c : Conv} (hc : s.conv h = some c) :
    park h s = raiseConv h .parked
      (s.withConv h { c with state := .parked, active := none, parkStart := some s.stc.time, forced := none }) := by
  unfold park
  rw [updConv_eq hc]
  rfl

/-! ## OPEN frames -/

/-- An OPEN that reaches the table goes by `takeOpen` (R12). -/
theorem Reaches.takesFrame_open {s : State} {p : Path} {hd : RxHead} {k : Nat} (hR : Reaches s p hd k)
    (hs : hd.srcHandle < 256) (hd' : hd.dstHandle = 0xFFFF) :
    TakesFrame (.openReceived p hd) s p k (takeOpen p k hd.srcHandle (hearPeer k p s)) := by
  have hdst : handleOfField hd.dstHandle = some none := by rw [hd', handleOfField_absent]
  have hf := hR.1.formatCheck (b := .openFrame) (body := .openFrame) rfl (handleOfField_present hs) hdst rfl rfl
  exact hR.takesFrame hf (by simp) (by simp)

section
variable {u : State} {p : Path} {k ph : Nat} {e : Peer} {a : LinkAddr} (he : u.peer k = some e)
  (ha : (e.links.get p).link = some a)
include he ha

/-- A repeat is answered with the standing record (R12, R13). -/
theorem takeOpen_repeat {h : Nat} (hf : u.handles.find? (u.isRepeat k ph) = some h) :
    takeOpen p k ph u =
      u.withPath p ((u.path p).withAnswer (answerTo e a (some h) (some ph) 0 (.openReply true) (some h))) := by
  unfold takeOpen
  rw [he]
  simp only [hf]
  exact answerFrame_eq_withAnswer he ha ..

/-- An OPEN that is not admitted is refused (R12). -/
theorem takeOpen_refused (hf : u.handles.find? (u.isRepeat k ph) = none)
    (hno : e.admission = false ∨ u.lowestVacant = none) :
    takeOpen p k ph u =
      u.withPath p ((u.path p).withAnswer (answerTo e a none (some ph) 0 (.openReply false) none)) := by
  have hnone : (if e.admission then u.lowestVacant else none) = none := by
    rcases hno with hno | hno <;> simp [hno]
  unfold takeOpen
  rw [he]
  simp only [hf, hnone]
  exact answerFrame_eq_withAnswer he ha ..

omit ha in
/-- An OPEN that is admitted fills the lowest VACANT record (R14). -/
theorem takeOpen_admitted (hf : u.handles.find? (u.isRepeat k ph) = none) {h : Nat} (hadm : e.admission = true)
    (hv : u.lowestVacant = some h) : takeOpen p k ph u = admitConv h k e ph p u := by
  unfold takeOpen
  rw [he]
  simp only [hf, hadm, hv, if_true]

end

theorem PathRec.withAnswer_room {r : PathRec} (hr : r.class1.length < 32) (f : QFrame) :
    r.withAnswer f = { r with class1 := r.class1 ++ [f] } := by
  rw [PathRec.withAnswer, if_pos hr]

theorem PathRec.withAnswer_full {r : PathRec} (hr : 32 ≤ r.class1.length) (f : QFrame) : r.withAnswer f = r := by
  rw [PathRec.withAnswer, if_neg (by omega)]

/-- Admission touches the new record, its notices and the arrival path's class 1 alone, displacement apart (R14). -/
theorem admitConv_frame {s : State} {k : Nat} {p : Path} {e : Peer} {a : LinkAddr} (he : s.peer k = some e)
    (ha : (e.links.get p).link = some a) (h ph : Nat) :
    ∃ c, admitConv h k e ph p s = (admittedIn h k e a ph p (displace k ph h s)).withConv h c ∨
      admitConv h k e ph p s = raiseConv h .parked ((admittedIn h k e a ph p (displace k ph h s)).withConv h c) := by
  rw [admitConv_eq he ha]
  split
  · exact ⟨_, .inl rfl⟩
  · exact ⟨_, .inr (park_eq (admittedIn_conv ..))⟩

theorem mem_reasonsAt_admittedIn (h k : Nat) (e : Peer) (a : LinkAddr) (ph : Nat) (p : Path) (w : State) :
    .openedByPeer ∈ reasonsAt (admittedIn h k e a ph p w).ntu.convs h :=
  (mem_reasonsAt_raiseConv h .openedByPeer (w.withConv h _) _).2 (.inl rfl)

/-- The admitted record and its notices (R14). -/
theorem admitConv_record {s : State} {k : Nat} {p : Path} {e : Peer} {a : LinkAddr} (he : s.peer k = some e)
    (ha : (e.links.get p).link = some a) (h ph : Nat) {t : State} (ht : t = admitConv h k e ph p s) :
    .openedByPeer ∈ reasonsAt t.ntu.convs h ∧
      if s.usable k p = true ∧ p ∈ e.admitList.getD [] then
        t.conv h = some { admitted k e ph with active := some p, state := .carrying }
      else
        t.conv h = some { admitted k e ph with
          state := .parked, active := none, parkStart := some s.stc.time, forced := none } ∧
        .parked ∈ reasonsAt t.ntu.convs h := by
  obtain ⟨w, hw⟩ : ∃ w, w = displace k ph h s := ⟨_, rfl⟩
  have hraised := mem_reasonsAt_admittedIn h k e a ph p w
  have hstc : w.stc = s.stc := hw ▸ State.outer_stc (displace_outer k ph h s)
  rw [ht, admitConv_eq he ha, ← hw]
  split
  · exact ⟨hraised, State.conv_withConv_same ..⟩
  · rw [park_eq (admittedIn_conv ..), ← hstc]
    refine ⟨mem_reasonsAt_raiseConv_of_mem h .parked hraised, State.conv_withConv_same .., ?_⟩
    exact (mem_reasonsAt_raiseConv ..).2 (.inl rfl)

/-- Settles O43: each case of `takeOpen` in turn, then the displacement record by record. -/
theorem anOpenIsRepeatedRefusedOrAdmitted : Obligations.AnOpenIsRepeatedRefusedOrAdmitted := by
  refine ⟨isRepeat_iff, fun s => KMap.lowestFree_spec s.convs 256, ?_, ?_, ?_, ?_⟩
  · intro s p hd k u e a hR hs hdst hu he ha hroom
    have ht := hR.takesFrame_open hs hdst
    rw [← hu] at ht
    refine ⟨fun h hf => ?_, fun hf => ⟨fun hno => ?_, fun h hadm hv => ?_⟩⟩
    · rwa [takeOpen_repeat he ha hf, PathRec.withAnswer_room hroom] at ht
    · rwa [takeOpen_refused he ha hf hno, PathRec.withAnswer_room hroom] at ht
    · obtain ⟨hlt, hvac, -⟩ := ((KMap.lowestFree_spec u.convs 256).2 h).1 hv
      rw [takeOpen_admitted he hf hadm hv] at ht
      obtain ⟨hraised, hrec⟩ := admitConv_record he ha h hd.srcHandle rfl
      have htime : u.stc = s.stc := hu ▸ State.outer_stc (hearPeer_outer k p s)
      rw [htime] at hrec
      refine ⟨hlt, hvac, admitConv h k e hd.srcHandle p u, ?_⟩
      split at hrec
      · rename_i hcond
        refine ⟨_, ht, hrec, rfl, rfl, rfl, rfl, rfl, rfl, rfl, rfl, rfl, rfl, rfl, rfl, rfl, hraised, ?_⟩
        rw [if_pos hcond]
        exact ⟨rfl, rfl⟩
      · rename_i hcond
        refine ⟨_, ht, hrec.1, rfl, rfl, rfl, rfl, rfl, rfl, rfl, rfl, rfl, rfl, rfl, rfl, rfl, hraised, ?_⟩
        rw [if_neg hcond]
        exact ⟨rfl, rfl, rfl, hrec.2⟩
  · intro s p hd k u e a hR hs hdst hu he ha hfull hcase
    have ht := hR.takesFrame_open hs hdst
    rw [← hu] at ht
    cases hf : u.handles.find? (u.isRepeat k hd.srcHandle) with
    | some h => rwa [takeOpen_repeat he ha hf, PathRec.withAnswer_full hfull, State.withPath_self] at ht
    | none =>
      have hno := hcase.resolve_left fun ⟨h, hh⟩ => by rw [hf] at hh; cases hh
      rwa [takeOpen_refused he ha hf hno, PathRec.withAnswer_full hfull, State.withPath_self] at ht
  · intro s p hd k h u w e a hR hs hdst hu he ha hf hadm hv hw
    have ht := hR.takesFrame_open hs hdst
    rw [← hu, takeOpen_admitted he hf hadm hv] at ht
    have hpath : ∀ q, (admittedIn h k e a hd.srcHandle p w).path q =
        if q = p then (w.path p).withAnswer (answerTo e a (some h) (some hd.srcHandle) 0 (.openReply true) (some h))
        else w.path q := fun q => State.path_withPath _ p q _
    obtain ⟨c, hc⟩ := admitConv_frame he ha h hd.srcHandle
    rw [← hw] at hc
    refine ⟨_, ht, ?_⟩
    rcases hc with hc | hc
    all_goals
      rw [hc]
      refine ⟨fun j hj => (State.conv_withConv_other _ c hj).trans (State.conv_withConv_other w _ hj), rfl,
        fun q hq => (hpath q).trans (if_neg hq), (hpath p).trans (if_pos rfl)⟩
  · intro s k ph h hq
    refine ⟨fun j hj => displace_vacant k ph h hj hq, fun j c hc => ⟨fun hout => ?_, fun hj hk hph => ?_⟩⟩
    · rw [displace_conv k ph h hc hq, if_neg (by tauto)]
    · have hdisp := displace_conv k ph h hc hq
      rw [if_pos ⟨hj, hk, hph⟩] at hdisp
      refine ⟨_, hdisp, c.displaced_peerHandle, c.displaced_peer.trans hk, c.displaced_state, fun hl => if_pos hl,
        fun hl => ⟨?_, ?_⟩⟩
      · rw [Conv.displaced, if_neg hl]
        rfl
      · exact displaceEach_lapsed _ hl hq hc ((mem_holders ..).2 ⟨c, hc, hj, hk, hph⟩)

end Sys2Proof.Machine
end

section
/-! PROOFS. OPEN-REPLY frames: R8's acceptance, the refusal, and the ABANDON that an unbound acceptance draws. -/

namespace Sys2Proof.Machine

/-! ## The acceptance -/

section
variable {s w : State} {h ph : Nat} {p : Path} {c b : Conv} (hw : w = displace c.peer ph h s) (hb : w.conv h = some b)
include hw hb

/-- The acceptance from the state that displacement leaves, the peer handle and the stopped attempts written (R8, R9). -/
theorem acceptOpening_eq :
    acceptOpening h c ph p s =
      if w.usable c.peer p = true ∧ p ∈ c.prefs then
        afterChecks h (raiseConv h .opened
          (w.withConv h { b with peerHandle := some ph, openTimer := none, openAttempt := none, active := some p,
                                 state := .carrying }))
      else
        raiseConv h .opened (park h
          (w.withConv h { b with peerHandle := some ph, openTimer := none, openAttempt := none })) := by
  have hus : ∀ d, (w.withConv h d).usable c.peer p = w.usable c.peer p := fun _ => rfl
  unfold acceptOpening
  simp only [← hw, updConv_eq hb, hus, Bool.and_eq_true, List.contains_iff_mem]
  rw [updConv_eq (State.conv_withConv_same w h _), State.withConv_withConv]

theorem acceptOpening_carries (hu : w.usable c.peer p = true) (hp : p ∈ c.prefs) :
    acceptOpening h c ph p s =
      checkClose h (quietPoint h (raiseConv h .opened
        (w.withConv h { b with peerHandle := some ph, openTimer := none, openAttempt := none, active := some p,
                               state := .carrying }))) :=
  (acceptOpening_eq hw hb).trans (if_pos ⟨hu, hp⟩)

theorem acceptOpening_parks (hn : ¬ (w.usable c.peer p = true ∧ p ∈ c.prefs)) :
    acceptOpening h c ph p s =
      raiseConv h .opened (raiseConv h .parked
        (w.withConv h { b with peerHandle := some ph, openTimer := none, openAttempt := none, active := none,
                               state := .parked, parkStart := some w.stc.time, forced := none })) := by
  refine (acceptOpening_eq hw hb).trans ((if_neg hn).trans ?_)
  rw [park_eq (State.conv_withConv_same w h _), State.withConv_withConv]
  rfl

end

/-- Where no other record holds the peer handle nothing is displaced (R9). -/
theorem displace_none {s : State} {k ph h : Nat}
    (hn : ∀ j b, s.conv j = some b → j ≠ h → ¬ (b.peer = k ∧ b.peerHandle = some ph)) : displace k ph h s = s := by
  have hnil : s.handles.filter (s.holdsPeerHandle k ph h) = [] := by
    rw [List.eq_nil_iff_forall_not_mem]
    intro j hj
    obtain ⟨b, hb, hne, hk, hph⟩ := (mem_holders ..).1 hj
    exact hn j b hb hne ⟨hk, hph⟩
  unfold displace
  rw [hnil]
  rfl

/-- Without a staged list a quiet point changes nothing (R148). -/
theorem quietPoint_unstaged {t : State} {h : Nat} {c : Conv} (hc : t.conv h = some c) (hs : c.staged = none) :
    quietPoint h t = t := by
  unfold quietPoint
  rw [hc]
  simp only [hs]
  split <;> rfl

/-- The acceptance of a record with no list staged and no close begun, its peer handle held by no other (R8). -/
theorem acceptOpening_alone {u : State} {h ph k : Nat} {p : Path} {c : Conv} (hc : u.conv h = some c) (hk : c.peer = k)
    (hst : c.staged = none) (hcl : c.closeStage = .opened)
    (hn : ∀ j b, u.conv j = some b → j ≠ h → ¬ (b.peer = k ∧ b.peerHandle = some ph)) {t : State}
    (ht : t = acceptOpening h c ph p u) :
    .opened ∈ reasonsAt t.ntu.convs h ∧
      if u.usable k p = true ∧ p ∈ c.prefs then
        t.conv h = some { c with
          peerHandle := some ph, openTimer := none, openAttempt := none, active := some p, state := .carrying }
      else
        t.conv h = some { c with
          peerHandle := some ph, openTimer := none, openAttempt := none, active := none, state := .parked,
          parkStart := some u.stc.time, forced := none } ∧
        .parked ∈ reasonsAt t.ntu.convs h := by
  subst hk
  have hw : u = displace c.peer ph h u := (displace_none hn).symm
  split
  · rename_i hcond
    obtain ⟨v, hv⟩ : ∃ v, v = raiseConv h .opened (u.withConv h { c with
        peerHandle := some ph, openTimer := none, openAttempt := none, active := some p, state := .carrying }) := ⟨_, rfl⟩
    have hvc : v.conv h = some { c with
        peerHandle := some ph, openTimer := none, openAttempt := none, active := some p, state := .carrying } := by
      rw [hv]
      exact State.conv_withConv_same u h _
    have htv : t = v := by
      rw [ht, acceptOpening_carries hw hc hcond.1 hcond.2, ← hv, quietPoint_unstaged hvc hst,
        checkClose_idle hvc (.inr (.inl (by simp [hcl])))]
    rw [htv]
    refine ⟨?_, hvc⟩
    rw [hv]
    exact (mem_reasonsAt_raiseConv ..).2 (.inl rfl)
  · rename_i hcond
    rw [ht, acceptOpening_parks hw hc hcond]
    refine ⟨(mem_reasonsAt_raiseConv ..).2 (.inl rfl), State.conv_withConv_same u h _, ?_⟩
    exact mem_reasonsAt_raiseConv_of_mem h .opened ((mem_reasonsAt_raiseConv ..).2 (.inl rfl))

/-! ## OPEN-REPLY frames -/

/-- A refusing OPEN-REPLY, which has no source handle (Table 8-2). -/
def refusalOf (hd : RxHead) : RxFrame where
  srcNode := hd.srcNode
  srcHandle := none
  dstHandle := some hd.dstHandle
  shift := hd.shift
  body := .openReply false

theorem Reaches.takesFrame_accepted {s : State} {p : Path} {hd : RxHead} {k : Nat} (hR : Reaches s p hd k)
    (hs : hd.srcHandle < 256) (hd' : hd.dstHandle < 256) :
    TakesFrame (.openReplyReceived p hd 1) s p k
      (takeOpenReply p k (frameOf hd (.openReply true)) true (hearPeer k p s)) := by
  have hf := hR.1.formatCheck (b := .openReply 1) (body := .openReply true) rfl (handleOfField_present hs)
    (handleOfField_present hd') rfl rfl
  exact hR.takesFrame hf (by simp) (by simp)

theorem Reaches.takesFrame_refused {s : State} {p : Path} {hd : RxHead} {k : Nat} (hR : Reaches s p hd k)
    (hs : hd.srcHandle = 0xFFFF) (hd' : hd.dstHandle < 256) :
    TakesFrame (.openReplyReceived p hd 2) s p k (takeOpenReply p k (refusalOf hd) false (hearPeer k p s)) := by
  have hsrc : handleOfField hd.srcHandle = some none := by rw [hs, handleOfField_absent]
  have hf := hR.1.formatCheck (b := .openReply 2) (body := .openReply false) rfl hsrc
    (handleOfField_present hd') rfl rfl
  exact hR.takesFrame hf (by simp) (by simp)

/-- A frame without a source handle is bound to an OPENING record of its peer alone (R2). -/
theorem bound_refusal {u : State} {k : Nat} {hd : RxHead}
    (hn : ∀ c, u.conv hd.dstHandle = some c → c.state ≠ .opening ∨ c.peer ≠ k) : u.bound k (refusalOf hd) = none := by
  unfold State.bound refusalOf
  cases hc : u.conv hd.dstHandle with
  | none => simp [hc]
  | some c => rcases hn c hc with h | h <;> simp [hc, h]

/-- An unbound acceptance draws an ABANDON on a path in service (R2). -/
theorem takeOpenReply_unbound {u : State} {p : Path} {k : Nat} {f : RxFrame} (hb : u.bound k f = none) (acc : Bool) :
    takeOpenReply p k f acc u =
      if acc = true ∧ (u.path p).state.inService = true then
        queueOpt (queue2 p) (u.frameTo k p f.dstHandle f.srcHandle 0 .abandon none) u
      else u := by
  unfold takeOpenReply
  rw [hb]
  simp only [State.serving, Bool.and_eq_true]

/-- An OPEN-REPLY to a record in any other state than OPENING changes nothing (R8). -/
theorem takeOpenReply_opened {u : State} {p : Path} {k h : Nat} {f : RxFrame} {c : Conv}
    (hb : u.bound k f = some (h, c)) (ho : c.state ≠ .opening) (acc : Bool) : takeOpenReply p k f acc u = u := by
  unfold takeOpenReply
  rw [hb]
  simp only [ho, if_false]

theorem takeOpenReply_refuses {u : State} {p : Path} {k h : Nat} {f : RxFrame} {c : Conv}
    (hb : u.bound k f = some (h, c)) (ho : c.state = .opening) :
    takeOpenReply p k f false u = lapse h .openRefused u := by
  unfold takeOpenReply
  rw [hb]
  simp only [ho, if_true]

theorem takeOpenReply_accepts {u : State} {p : Path} {k h ph : Nat} {f : RxFrame} {c : Conv}
    (hb : u.bound k f = some (h, c)) (ho : c.state = .opening) (hs : f.srcHandle = some ph) :
    takeOpenReply p k f true u = acceptOpening h c ph p u := by
  unfold takeOpenReply
  rw [hb]
  simp only [ho, hs, if_true]

/-- Settles O44: binding selects the case of `takeOpenReply`; the acceptance is taken from the displaced state. -/
theorem anOpenReplyEndsTheOpening : Obligations.AnOpenReplyEndsTheOpening := by
  refine ⟨?_, ?_, ?_⟩
  · intro s p hd k u hR hd' hu
    refine ⟨fun hs hn => ?_, fun hs hU => ⟨fun hout => ?_, fun e a hin he ha => ?_⟩⟩
    · have ht := hR.takesFrame_refused hs hd'
      rwa [← hu, takeOpenReply_unbound (bound_refusal hn), if_neg (by simp)] at ht
    · have ht := hR.takesFrame_accepted hs hd'
      rwa [← hu, takeOpenReply_unbound (hU.bound _), if_neg (by simp [hout])] at ht
    · have ht := hR.takesFrame_accepted hs hd'
      rw [← hu, takeOpenReply_unbound (hU.bound _), if_pos ⟨rfl, hin⟩, frameTo_present he ha, queueOpt,
        queue2_once p u rfl] at ht
      exact ht
  · intro s p hd k u c hR hd' hu hc
    refine ⟨fun hs ho hk => ?_, fun hs hB => ?_, fun hs ho hk hst hcl hn => ?_, fun hs ho hk => ?_⟩
    · have ht := hR.takesFrame_refused hs hd'
      rwa [← hu, takeOpenReply_refuses (bound_opening hc ho hk rfl) ho] at ht
    · have ht := hR.takesFrame_accepted hs hd'
      rwa [← hu, takeOpenReply_opened (hB.bound hc _) hB.2.1] at ht
    · have ht := hR.takesFrame_accepted hs hd'
      rw [← hu, takeOpenReply_accepts (bound_opening hc ho hk rfl) ho rfl] at ht
      have htime : u.stc = s.stc := hu ▸ State.outer_stc (hearPeer_outer k p s)
      rw [← htime]
      exact ⟨_, ht, acceptOpening_alone hc hk hst hcl hn rfl⟩
    · have ht := hR.takesFrame_accepted hs hd'
      rwa [← hu, takeOpenReply_accepts (bound_opening hc ho hk rfl) ho rfl] at ht
  · intro s w h ph p c b hw hb
    refine ⟨fun hu hp => acceptOpening_carries hw hb hu hp, fun hn => acceptOpening_parks hw hb ?_⟩
    rintro ⟨hu, hp⟩
    rcases hn with hn | hn
    · rw [hu] at hn
      cases hn
    · exact hn hp

end Sys2Proof.Machine
end

section
/-! PROOFS. Every step keeps the Retention Store canonical, the tables canonical and the cells in balance: the books of each
operation, in the order of the model's files. -/

namespace Sys2Proof.Machine

/-! ## Sums over a table -/

/-- The sum of a weight over the values of a map. -/
def KMap.total {α : Type} (w : α → Nat) (m : KMap α) : Nat := (m.map fun e => w e.2).sum

theorem KMap.total_cons {α : Type} (w : α → Nat) (j : Nat) (x : α) (m : KMap α) :
    KMap.total w ((j, x) :: m) = w x + KMap.total w m := by
  simp [KMap.total]

/-- A map in canonical form: the first key is below all others, and the rest is canonical. -/
theorem KMap.wf_cons {α : Type} {j : Nat} {x : α} {m : KMap α} (h : KMap.wf ((j, x) :: m) = true) :
    (∀ i ∈ KMap.keys m, j < i) ∧ KMap.wf m = true := by
  have h' := List.pairwise_cons.1 (of_decide_eq_true h)
  exact ⟨h'.1, decide_eq_true h'.2⟩

/-- Writing under a number without a value adds the value's weight. -/
theorem KMap.total_set_new {α : Type} (w : α → Nat) (v : α) {k : Nat} : ∀ {m : KMap α}, KMap.get? m k = none →
    KMap.total w (KMap.set m k v) = KMap.total w m + w v
  | [], _ => by simp [KMap.set, KMap.total]
  | (j, x) :: m, h => by
    unfold KMap.get? at h
    by_cases hj : j = k
    · simp [hj] at h
    · rw [if_neg hj] at h
      unfold KMap.set
      rw [if_neg (Ne.symm hj)]
      split
      · simp only [KMap.total_cons]; omega
      · simp only [KMap.total_cons, KMap.total_set_new w v h]; omega

/-- Writing under a number with a value exchanges their weights. -/
theorem KMap.total_set {α : Type} (w : α → Nat) (v : α) {k : Nat} {u : α} : ∀ {m : KMap α}, m.wf = true →
    KMap.get? m k = some u → KMap.total w (KMap.set m k v) + w u = KMap.total w m + w v
  | (j, x) :: m, hm, h => by
    obtain ⟨hlow, hm'⟩ := KMap.wf_cons hm
    unfold KMap.get? at h
    unfold KMap.set
    by_cases hj : j = k
    · subst hj
      simp at h
      subst h
      simp only [Nat.lt_irrefl, if_false, if_true, KMap.total_cons]
      omega
    · rw [if_neg hj] at h
      have hk := hlow k ((KMap.get?_isSome m k).1 (by rw [h]; rfl))
      have ih := KMap.total_set w v hm' h
      rw [if_neg (by omega), if_neg (by omega)]
      simp only [KMap.total_cons]
      omega

theorem KMap.erase_absent {α : Type} {k : Nat} : ∀ {m : KMap α}, k ∉ KMap.keys m → KMap.erase m k = m
  | [], _ => rfl
  | (j, x) :: m, h => by
    simp only [KMap.keys, List.map_cons, List.mem_cons, not_or] at h
    rw [KMap.erase, if_neg (Ne.symm h.1), KMap.erase_absent h.2]

/-- Erasing a value takes its weight away. -/
theorem KMap.total_erase {α : Type} (w : α → Nat) {k : Nat} {u : α} : ∀ {m : KMap α}, m.wf = true →
    KMap.get? m k = some u → KMap.total w (KMap.erase m k) + w u = KMap.total w m
  | (j, x) :: m, hm, h => by
    obtain ⟨hlow, hm'⟩ := KMap.wf_cons hm
    unfold KMap.get? at h
    unfold KMap.erase
    by_cases hj : j = k
    · subst hj
      simp at h
      subst h
      rw [if_pos rfl, KMap.erase_absent fun hk => Nat.lt_irrefl _ (hlow _ hk), KMap.total_cons]
      omega
    · rw [if_neg hj] at h ⊢
      have ih := KMap.total_erase w hm' h
      simp only [KMap.total_cons]
      omega

/-- The number of cells that a record's journal holds. -/
def Conv.held (c : Conv) : Nat := c.journal.length

theorem journalCells_length (s : State) : s.journalCells.length = KMap.total Conv.held s.convs := by
  simp [State.journalCells, List.length_flatMap, KMap.total, Conv.held]

/-! ## The relation that every operation is shown to keep -/

/-- State `t` keeps the books of `s`: its store is canonical if that of `s` was, and its tables are canonical with its cells
in balance if those of `s` were (R27). -/
def KeepsBooks (s t : State) : Prop :=
  (StoreCanonical s → StoreCanonical t) ∧
    (TablesCanonical s ∧ CellsBalance s → TablesCanonical t ∧ CellsBalance t)

theorem KeepsBooks.refl (s : State) : KeepsBooks s s := ⟨id, id⟩

theorem KeepsBooks.trans {s t u : State} (h : KeepsBooks s t) (k : KeepsBooks t u) : KeepsBooks s u :=
  ⟨k.1 ∘ h.1, k.2 ∘ h.2⟩

section
variable {s t : State}

/-- The books look at the records, the store and the peer table's canonical form alone. -/
theorem books_of_peers {u : State} (k : KeepsBooks s t) (hc : u.convs = t.convs) (hr : u.rts = t.rts)
    (hp : t.prt.peers.wf = true → u.prt.peers.wf = true) : KeepsBooks s u := by
  refine k.trans ⟨fun hs => ?_, fun ⟨ht, hb⟩ => ⟨⟨?_, hp ht.2⟩, ?_⟩⟩
  · rw [StoreCanonical, hr]
    exact hs
  · rw [hc]
    exact ht.1
  · rw [CellsBalance, hr, State.journalCells, hc]
    exact hb

theorem books_of_same {u : State} (k : KeepsBooks s t) (hc : u.convs = t.convs) (hr : u.rts = t.rts)
    (hp : u.prt.peers = t.prt.peers) : KeepsBooks s u := books_of_peers k hc hr (fun h => hp ▸ h)

/-- A record rewritten, where the free list loses what the journal gains. -/
theorem books_of_rewrite {u : State} {h : Nat} {c d : Conv} (k : KeepsBooks s t) (hc : t.conv h = some c)
    (hu : u.convs = KMap.set t.convs h d) (hp : u.prt = t.prt) (hs : StoreCanonical t → StoreCanonical u)
    (hn : u.rts.free.length + d.held = t.rts.free.length + c.held) : KeepsBooks s u := by
  refine k.trans ⟨hs, fun ⟨ht, hb⟩ => ⟨⟨?_, ?_⟩, ?_⟩⟩
  · rw [hu]
    exact KMap.wf_set ht.1 h d
  · rw [hp]
    exact ht.2
  · have hsum := KMap.total_set Conv.held d ht.1 hc
    simp only [CellsBalance, journalCells_length, hu] at hb ⊢
    omega

/-- A record rewritten with a journal of the same length. -/
theorem setConv_books {h : Nat} {c d : Conv} (k : KeepsBooks s t) (hc : t.conv h = some c)
    (hd : d.held = c.held) : KeepsBooks s (setConv h d t) :=
  books_of_rewrite k hc rfl rfl id (by rw [hd]; rfl)

/-- A record that comes into use with an empty journal. -/
theorem setConv_new_books {h : Nat} {d : Conv} (k : KeepsBooks s t) (hc : t.conv h = none) (hd : d.held = 0) :
    KeepsBooks s (setConv h d t) := by
  refine k.trans ⟨id, fun ⟨ht, hb⟩ => ⟨⟨KMap.wf_set ht.1 h d, ht.2⟩, ?_⟩⟩
  have hsum := KMap.total_set_new Conv.held d hc
  simp only [CellsBalance, journalCells_length, setConv_convs, setConv_rts] at hb ⊢
  omega

theorem updConv_books {h : Nat} {f : Conv → Conv} (k : KeepsBooks s t) (hf : ∀ c, (f c).held = c.held) :
    KeepsBooks s (updConv h f t) := by
  unfold updConv
  split
  · exact k
  · exact setConv_books k (by assumption) (hf _)

theorem forEach_books {α : Type} {l : List α} {f : α → State → State} (k : KeepsBooks s t)
    (hf : ∀ a u, KeepsBooks s u → KeepsBooks s (f a u)) : KeepsBooks s (forEach l f t) :=
  forEach_keeps (KeepsBooks s) f hf l t k

/-- Cells that return leave the store canonical. -/
theorem returnCells_store (l : List Nat) (hs : StoreCanonical t) : StoreCanonical (returnCells l t) :=
  forEach_keeps (fun m => KMap.wf m = true) (fun n m => KMap.erase m n) (fun n _ h => KMap.wf_erase h n) l _ hs

/-- Cells that return from a journal (R27, R36, R50). -/
theorem returnCells_books {h : Nat} {c d : Conv} {l : List Nat} (k : KeepsBooks s t) (hc : t.conv h = some c)
    (hl : l.length + d.held = c.held) : KeepsBooks s (returnCells l (setConv h d t)) := by
  refine books_of_rewrite (u := returnCells l (setConv h d t)) k hc rfl rfl (returnCells_store (t := setConv h d t) l) ?_
  have hfree : (returnCells l (setConv h d t)).rts.free = t.rts.free ++ l := rfl
  rw [hfree, List.length_append]
  omega

/-- A record that leaves the table with all its cells returned (R1). -/
theorem eraseConv_books {u : State} {h : Nat} {c : Conv} (k : KeepsBooks s t) (hc : t.conv h = some c)
    (hu : u.convs = t.convs) (hp : u.prt = t.prt) (hr : u.rts = (returnCells (c.journal.map JRec.cell) t).rts) :
    KeepsBooks s (eraseConv h u) := by
  refine k.trans ⟨fun hs => ?_, fun ⟨ht, hb⟩ => ⟨⟨?_, ?_⟩, ?_⟩⟩
  · rw [StoreCanonical, eraseConv_rts, hr]
    exact returnCells_store _ hs
  · show KMap.wf (KMap.erase u.convs h) = true
    rw [hu]
    exact KMap.wf_erase ht.1 h
  · show KMap.wf u.prt.peers = true
    rw [hp]
    exact ht.2
  · have hsum := KMap.total_erase Conv.held ht.1 hc
    have hfree : (eraseConv h u).rts.free = t.rts.free ++ c.journal.map JRec.cell := by
      rw [eraseConv_rts, hr]
      rfl
    have hconvs : (eraseConv h u).convs = KMap.erase t.convs h := by rw [← hu]; rfl
    have hheld : c.held = c.journal.length := rfl
    simp only [CellsBalance, journalCells_length, hfree, hconvs, List.length_append, List.length_map] at hb ⊢
    omega

end

/-! ## Journals -/

theorem goBack_length (l : List JRec) : (goBack l).length = l.length := List.length_map _
theorem makeUnsure_length (l : List JRec) : (makeUnsure l).length = l.length := List.length_map _
theorem makeReturned_length (v : Nat) (l : List JRec) : (makeReturned v l).length = l.length := List.length_map _
theorem makeSent_length (q n : Nat) (l : List JRec) : (makeSent q n l).length = l.length := List.length_map _

/-! ## Shared operations (Machine/Ops.lean) -/

section
variable {s t : State} (k : KeepsBooks s t)
include k

theorem updPath_books (p : Path) (f : PathRec → PathRec) : KeepsBooks s (updPath p f t) := books_of_same k rfl rfl rfl
theorem raiseConv_books (h : Nat) (r : Reason) : KeepsBooks s (raiseConv h r t) := books_of_same k rfl rfl rfl
theorem raisePath_books (p : Path) (r : Reason) : KeepsBooks s (raisePath p r t) := books_of_same k rfl rfl rfl
theorem raisePeer_books (n : Nat) (r : Reason) : KeepsBooks s (raisePeer n r t) := books_of_same k rfl rfl rfl
theorem she_books (x : She) : KeepsBooks s { t with she := x } := books_of_same k rfl rfl rfl
theorem dlq_books (x : Dlq) : KeepsBooks s { t with dlq := x } := books_of_same k rfl rfl rfl
theorem ntu_books (x : Ntu) : KeepsBooks s { t with ntu := x } := books_of_same k rfl rfl rfl
theorem setSlot_books (n : Nat) (v : Slot) : KeepsBooks s (setSlot n v t) := books_of_same k rfl rfl rfl
theorem freeSlot_books (n : Nat) : KeepsBooks s (freeSlot n t) := books_of_same k rfl rfl rfl
theorem leaveShift_books (h : Nat) : KeepsBooks s (leaveShift h t) := books_of_same k rfl rfl rfl
theorem withdrawConv_books (h : Nat) : KeepsBooks s (withdrawConv h t) := books_of_same k rfl rfl rfl
theorem withdrawClass2_books (h : Nat) (p : Path) : KeepsBooks s (withdrawClass2 h p t) := books_of_same k rfl rfl rfl
theorem withdrawInquiry_books (h : Nat) (p : Path) : KeepsBooks s (withdrawInquiry h p t) := books_of_same k rfl rfl rfl
theorem rekindAck_books (h : Nat) (w : Bool) (d : Nat) : KeepsBooks s (rekindAck h w d t) := books_of_same k rfl rfl rfl
theorem advanceTo_books (n : Nat) : KeepsBooks s (advanceTo n t) := books_of_same k rfl rfl rfl
theorem setRound_books (p : Path) (n : Option Nat) : KeepsBooks s (setRound p n t) := books_of_same k rfl rfl rfl
theorem updHlu_books (f : Hlu → Hlu) : KeepsBooks s (updHlu f t) := books_of_same k rfl rfl rfl

theorem queueOpt_books {q : QFrame → State → State} (hq : ∀ f u, KeepsBooks s u → KeepsBooks s (q f u))
    (f : Option QFrame) : KeepsBooks s (queueOpt q f t) := by
  cases f with
  | none => exact k
  | some f => exact hq f t k

theorem queueOpt1_books (p : Path) (f : Option QFrame) : KeepsBooks s (queueOpt (queue1 p) f t) :=
  queueOpt_books k (fun _ _ k => updPath_books k p _) f
theorem queueOpt2_books (p : Path) (f : Option QFrame) : KeepsBooks s (queueOpt (queue2 p) f t) :=
  queueOpt_books k (fun _ _ k => updPath_books k p _) f
theorem queueOpt3_books (p : Path) (f : Option QFrame) : KeepsBooks s (queueOpt (queue3 p) f t) :=
  queueOpt_books k (fun _ _ k => updPath_books k p _) f
theorem queueOpt4_books (p : Path) (f : Option QFrame) : KeepsBooks s (queueOpt (queue4 p) f t) :=
  queueOpt_books k (fun _ _ k => updPath_books k p _) f

theorem updPeer_books (n : Nat) (f : Peer → Peer) : KeepsBooks s (updPeer n f t) := by
  unfold updPeer
  split
  · exact k
  · exact books_of_peers k rfl rfl fun h => KMap.wf_set h n _

theorem updLink_books (n : Nat) (p : Path) (f : PeerLink → PeerLink) : KeepsBooks s (updLink n p f t) :=
  updPeer_books k n _

theorem joinQueue_books (h : Nat) : KeepsBooks s (joinQueue h t) := by
  unfold joinQueue
  split
  · exact k
  · rename_i c hc
    exact books_of_same (setConv_books (d := { c with state := .shiftQueued }) k hc (by rfl)) rfl rfl rfl

theorem park_books (h : Nat) : KeepsBooks s (park h t) := raiseConv_books (updConv_books k (by intro _; rfl)) h _

theorem queueSlotInquiry_books (sl : Slot) (c : Conv) (p : Path) : KeepsBooks s (queueSlotInquiry sl c p t) :=
  queueOpt2_books k p _

theorem chooseCore_books (n : Nat) : KeepsBooks s (chooseCore n t) := by
  unfold chooseCore
  split
  · exact k
  · split
    · exact k
    · split
      · exact queueSlotInquiry_books (setSlot_books k n _) _ _ _
      · exact park_books (freeSlot_books k n) _

theorem lapseCore_books (h : Nat) (why : LapseReason) : KeepsBooks s (lapseCore h why t) := by
  unfold lapseCore
  split
  · exact k
  · rename_i c hc
    split
    · exact k
    · exact raiseConv_books (withdrawConv_books (leaveShift_books
        (setConv_books (d := c.lapsedBy why) k hc (makeUnsure_length _)) h) h) h _

theorem applyStaged_books {h : Nat} {c : Conv} (hc : t.conv h = some c) : KeepsBooks s (applyStaged h c t) := by
  unfold applyStaged
  split
  · exact k
  · exact raiseConv_books (setConv_books k hc (by rfl)) h _

theorem grant_books (n h : Nat) : KeepsBooks s (grant n h t) := by
  unfold grant
  split
  · exact k
  · rename_i c hc
    split
    · exact lapseCore_books k h _
    · have k4 := raiseConv_books (setSlot_books (updConv_books (h := h)
        (f := fun c => { c with state := .shifting, sendShift := c.sendShift + 1 }) (applyStaged_books k hc) (by intro _; rfl)) n
        { handle := h, phase := .holdOff, newShift := c.sendShift + 1, candidate := none, tried := [],
          attempt := none, void := none, timer := some (t.after c.holdOff) }) h .shiftBegun
      simp only
      split
      · exact chooseCore_books k4 n
      · exact k4

omit k in
theorem grants_books : ∀ (n : Nat) {t : State}, KeepsBooks s t → KeepsBooks s (grants n t)
  | 0, _, k => k
  | n + 1, t, k => by
    unfold grants
    split
    · exact grants_books n (grant_books (she_books k _) _ _)
    · exact k

theorem grantAll_books : KeepsBooks s (grantAll t) := grants_books _ k
theorem enterQueue_books (h : Nat) : KeepsBooks s (enterQueue h t) := grantAll_books (joinQueue_books k h)
theorem choose_books (n : Nat) : KeepsBooks s (choose n t) := grantAll_books (chooseCore_books k n)
theorem lapse_books (h : Nat) (why : LapseReason) : KeepsBooks s (lapse h why t) := grantAll_books (lapseCore_books k h why)

theorem vacate_books (h : Nat) : KeepsBooks s (vacate h t) := by
  unfold vacate
  split
  · exact k
  · exact grantAll_books (eraseConv_books k (by assumption) rfl rfl rfl)

/-- A conversation that leaves its path or its park is WITHHELD or joins the shift queue (R123, R145). -/
theorem withheldOrQueued_books {h : Nat} {c : Conv} (hc : t.conv h = some c) (b : Bool) {d : Conv}
    (hd : d.held = c.held) :
    KeepsBooks s (if b then raiseConv h .withheld (setConv h { d with state := .withheld } t)
      else enterQueue h (setConv h d t)) := by
  split
  · exact raiseConv_books (setConv_books (d := { d with state := .withheld }) k hc hd) h _
  · exact enterQueue_books (setConv_books k hc hd) h

theorem shiftCause_books (a : Bool) (h : Nat) : KeepsBooks s (shiftCause a h t) := by
  unfold shiftCause
  split
  · exact k
  · rename_i c hc
    split
    · cases c.active with
      | none => exact withheldOrQueued_books k hc _ rfl
      | some p => exact withheldOrQueued_books (withdrawClass2_books k h p) hc _ rfl
    · exact k

theorem cue_books (h : Nat) : KeepsBooks s (cue h t) := by
  unfold cue
  split
  · exact k
  · rename_i c hc
    split
    · exact withheldOrQueued_books k hc _ rfl
    · exact k

theorem cueAll_books (n : Option Nat) (p : Path) : KeepsBooks s (cueAll n p t) :=
  forEach_books k fun h _ k => cue_books k h

theorem quietPoint_books (h : Nat) : KeepsBooks s (quietPoint h t) := by
  unfold quietPoint
  split
  · exact k
  · rename_i c hc
    have k1 := applyStaged_books k hc
    split
    · split
      · exact k
      · simp only
        split
        · exact k1
        · split
          · exact k1
          · exact shiftCause_books k1 _ h
    · exact k

theorem checkClose_books (h : Nat) : KeepsBooks s (checkClose h t) := by
  unfold checkClose
  split
  · exact k
  · rename_i c hc
    split
    · split
      · exact k
      · exact queueOpt2_books (setConv_books k hc (by rfl)) _ _
    · exact k

theorem afterChecks_books (h : Nat) : KeepsBooks s (afterChecks h t) := checkClose_books (quietPoint_books k h) h

theorem placeAck_books (h : Nat) (w : Bool) (own : Option Path) : KeepsBooks s (placeAck h w own t) := by
  unfold placeAck
  split
  · exact k
  · split
    · exact k
    · split
      · exact k
      · exact queueOpt4_books k _ _

theorem requestAck_books (h : Nat) (w : Bool) (own : Option Path) : KeepsBooks s (requestAck h w own t) := by
  unfold requestAck
  split
  · exact k
  · split
    · exact k
    · split
      · exact rekindAck_books k h w _
      · exact placeAck_books k h w own

theorem replaceAck_books (f : QFrame) : KeepsBooks s (replaceAck f t) := by
  unfold replaceAck
  split
  · exact k
  · exact placeAck_books k _ _ _

end

end Sys2Proof.Machine
end

section
/-! PROOFS. The books under the operations over paths and peers, and at the end of a taking. -/

namespace Sys2Proof.Machine

/-- What a conversation offers is its transmittable record (R32, R87). -/
theorem offer_eq_some {s : State} {p : Path} {h : Nat} {c : Conv} {x : JRec} : s.offer p h = some (c, x) ↔
    s.conv h = some c ∧ c.state = .carrying ∧ c.active = some p ∧ c.transmittable = some x := by
  unfold State.offer
  cases hc : s.conv h with
  | none => simp
  | some d =>
    by_cases hd : d.state = .carrying ∧ d.active = some p
    · simp only [hd, decide_true, Bool.and_self, if_true, Option.map_eq_some_iff, Prod.mk.injEq]
      constructor
      · rintro ⟨_, ht, rfl, rfl⟩
        exact ⟨rfl, hd.1, hd.2, ht⟩
      · rintro ⟨hdc, -, -, ht⟩
        cases hdc
        exact ⟨x, ht, rfl, rfl⟩
    · have hf : (d.state = .carrying && decide (d.active = some p)) = false := by simpa using hd
      simp only [hf, Bool.false_eq_true, if_false]
      constructor
      · intro h
        cases h
      · rintro ⟨hdc, h1, h2, -⟩
        cases hdc
        exact absurd ⟨h1, h2⟩ hd

/-! ## Paths and peers (Machine/Service.lean) -/

section
variable {s t : State} (k : KeepsBooks s t)
include k

theorem dropCandidate_books (n : Nat) : KeepsBooks s (dropCandidate n t) := by
  unfold dropCandidate
  split
  · exact k
  · split
    · exact k
    · exact choose_books (setSlot_books (withdrawInquiry_books k _ _) n _) n

theorem dropCandidates_books (p : Path) (peer : Option Nat) : KeepsBooks s (dropCandidates p peer t) :=
  forEach_books k fun n u ku => by
    split
    · exact dropCandidate_books ku n
    · exact ku

theorem leaveService_books (p : Path) (acks : List QFrame) : KeepsBooks s (leaveService p acks t) :=
  forEach_books (dropCandidates_books (forEach_books k fun h _ ku => shiftCause_books ku true h) p none)
    fun f _ ku => replaceAck_books ku f

theorem quenchOne_books (p : Path) (why : Cause) : KeepsBooks s (quenchOne p why t) := by
  unfold quenchOne
  split
  · exact raisePath_books (leaveService_books (updPath_books k p _) p _) p _
  · exact raisePath_books (updPath_books k p _) p _

omit k in
theorem enterQuench_books : ∀ (n : Nat) (p : Path) (why : Cause) {t : State}, KeepsBooks s t →
    KeepsBooks s (enterQuench n p why t)
  | 0, _, _, _, k => k
  | n + 1, p, why, _, k => by
    rw [enterQuench_succ]
    refine forEach_books (quenchOne_books k p why) fun q u ku => ?_
    split
    · exact enterQuench_books n q .companion ku
    · exact ku

theorem quenchPath_books (p : Path) (why : Cause) : KeepsBooks s (quenchPath p why t) := enterQuench_books 4 p why k

theorem handCondition_books (src : QuenchSource) (why : Cause) (p : Path) : KeepsBooks s (handCondition src why p t) := by
  unfold handCondition
  split
  · exact quenchPath_books k p why
  · exact k

theorem provingCheck_books (p : Path) : KeepsBooks s (provingCheck p t) := by
  unfold provingCheck
  simp only
  split
  · exact quenchPath_books k p _
  · split
    · exact quenchPath_books k p _
    · exact k

/-- The state that the comparisons of R79 leave, before the hand-over of SCORE. -/
theorem scoreState_books (b d : Bool) (p : Path) (f g : PathRec → PathRec) :
    KeepsBooks s
      (if b then raisePath p .state (updPath p f t)
       else if d then cueAll none p (raisePath p .state (updPath p g t)) else t) := by
  split
  · exact raisePath_books (updPath_books k p _) p _
  · split
    · exact cueAll_books (raisePath_books (updPath_books k p _) p _) _ p
    · exact k

theorem applyScore_books (p : Path) (n : Nat) : KeepsBooks s (applyScore p n t) := by
  unfold applyScore
  simp only
  split
  · split
    · exact handCondition_books (scoreState_books (updPath_books k p _) _ _ p _ _) _ _ p
    · exact scoreState_books (updPath_books k p _) _ _ p _ _
  · exact k

theorem addScore_books (p : Path) (n : Nat) : KeepsBooks s (addScore p n t) := applyScore_books k p _
theorem lowerScore_books (p : Path) : KeepsBooks s (lowerScore p t) := applyScore_books k p _

theorem beginRound_books (p : Path) : KeepsBooks s (beginRound p t) :=
  setRound_books (forEach_books (forEach_books k fun n _ ku => updLink_books ku n p _)
    fun _ _ ku => queueOpt3_books ku p _) p _

theorem becomeUnknown_books (p : Path) (n : Nat) : KeepsBooks s (becomeUnknown p n t) := by
  unfold becomeUnknown
  simp only
  split
  · exact updLink_books (raisePeer_books k n _) n p _
  · exact updLink_books k n p _

theorem stopRounds_books (p : Path) : KeepsBooks s (stopRounds p t) :=
  forEach_books (updPath_books (setRound_books k p none) p _) fun n _ ku => becomeUnknown_books ku p n

theorem testPeerAll_books (p : Path) : KeepsBooks s (testPeerAll p t) := by
  unfold testPeerAll
  split
  · exact handCondition_books k _ _ p
  · exact k

theorem becomeUnreachable_books (n : Nat) (p : Path) : KeepsBooks s (becomeUnreachable n p t) :=
  raisePeer_books (testPeerAll_books (dropCandidates_books
    (forEach_books (updLink_books k n p _) fun h _ ku => shiftCause_books ku true h) p (some n)) p) n _

theorem missRound_books (p : Path) (n : Nat) : KeepsBooks s (missRound p n t) := by
  have k1 := updLink_books k n p fun l => { l with miss := min Config.maxMiss (l.miss + 1) }
  unfold missRound
  simp only
  split
  · exact k1
  · split
    · exact becomeUnreachable_books k1 n p
    · exact k1

theorem closeRound_books (p : Path) : KeepsBooks s (closeRound p t) := by
  have k1 : ∀ l, KeepsBooks s (forEach l (missRound p) t) :=
    fun _ => forEach_books k fun n _ ku => missRound_books ku p n
  unfold closeRound
  simp only
  split
  · exact addScore_books (k1 _) p 8
  · exact k1 _

theorem markPeer_books (n : Nat) (p : Path) : KeepsBooks s (markPeer n p t) := by
  unfold markPeer
  split
  · exact becomeUnreachable_books (updLink_books k n p _) n p
  · exact k

theorem revivedPath_books (p : Path) : KeepsBooks s (revivedPath p t) := by
  unfold revivedPath
  simp only
  split
  · split
    · exact beginRound_books (updPath_books k p _) p
    · exact updPath_books k p _
  · split
    · exact stopRounds_books (updPath_books k p _) p
    · exact updPath_books k p _

/-- The state of a revival before its release events. -/
theorem revivedState_books (p : Path) (b : Bool) :
    KeepsBooks s (if b then provingCheck p (raisePath p .state (revivedPath p t))
      else raisePath p .state (revivedPath p t)) := by
  have k1 := raisePath_books (revivedPath_books k p) p .state
  split
  · exact provingCheck_books k1 p
  · exact k1

omit k in
theorem revive_books : ∀ (n : Nat) (p : Path) {t : State}, KeepsBooks s t → KeepsBooks s (revive n p t)
  | 0, _, _, k => k
  | n + 1, p, _, k => by
    unfold revive
    simp only
    split
    · refine forEach_books (revivedState_books k p _) fun q u ku => ?_
      split
      · exact revive_books n q ku
      · exact ku
    · exact revivedState_books k p _

theorem releaseEvent_books (p : Path) : KeepsBooks s (releaseEvent p t) := by
  unfold releaseEvent
  split
  · exact revive_books 4 p k
  · exact k

theorem leftQuenched_books (p : Path) : KeepsBooks s (leftQuenched p t) :=
  forEach_books k fun q _ ku => releaseEvent_books ku q

theorem becomeReachable_books (n : Nat) (p : Path) : KeepsBooks s (becomeReachable n p t) := by
  have k1 := updLink_books k n p fun l => { l with reach := .reachable }
  unfold becomeReachable
  simp only
  split
  · exact raisePeer_books (releaseEvent_books k1 p) n _
  · exact raisePeer_books k1 n _

theorem hearPeer_books (n : Nat) (p : Path) : KeepsBooks s (hearPeer n p t) := by
  have k1 := updLink_books k n p fun l => { l with heard := true, miss := 0, lastHeard := some t.now }
  unfold hearPeer
  simp only
  split
  · exact k1
  · exact becomeReachable_books k1 n p

theorem lineUp_books (p : Path) : KeepsBooks s (lineUp p t) :=
  provingCheck_books (raisePath_books (beginRound_books (updPath_books k p _) p) p _) p

/-- A path that stops its rounds, and leaves service if it was in it (R74, R90). -/
theorem leftPath_books (p : Path) (f : PathRec → PathRec) (b : Bool) (acks : List QFrame) :
    KeepsBooks s (raisePath p .state
      (if b then leaveService p acks (stopRounds p (updPath p f t)) else stopRounds p (updPath p f t))) := by
  have k1 := stopRounds_books (updPath_books k p f) p
  split
  · exact raisePath_books (leaveService_books k1 p acks) p _
  · exact raisePath_books k1 p _

theorem lineDown_books (p : Path) : KeepsBooks s (lineDown p t) := by
  unfold lineDown
  simp only
  split
  · exact raisePath_books (leftPath_books k p _ _ _) p _
  · exact leftPath_books k p _ _ _

theorem drainPath_books (p : Path) : KeepsBooks s (drainPath p t) := by
  unfold drainPath
  simp only
  split
  · exact leftQuenched_books (leftPath_books k p _ _ _) p
  · exact leftPath_books k p _ _ _

/-! ## The end of a taking (Machine/Transmit.lean) -/

theorem beginData_books (p : Path) (h : Nat) : KeepsBooks s (beginData p h t) := by
  unfold beginData
  split
  · exact k
  · rename_i c x ho
    split
    · exact k
    · exact updPath_books (setConv_books (d := { c with
        journal := makeSent x.seq c.sendShift c.journal
        ackTimer := c.ackTimer.started (t.after c.ackInterval) }) k (offer_eq_some.1 ho).1 (makeSent_length ..)) p _

theorem beginPort_books (p : Path) : KeepsBooks s (beginPort p t) := by
  unfold beginPort
  simp only
  split
  · exact k
  · split
    · exact updPath_books k p _
    · split
      · split
        · exact beginData_books k p _
        · exact k
      · exact k

theorem beginAll_books : KeepsBooks s (beginAll t) :=
  beginPort_books (beginPort_books (beginPort_books (beginPort_books k .p0) .p1) .p2) .p3

theorem chooseOut_books : KeepsBooks s (chooseOut t) :=
  books_of_same k (chooseOut_convs t) (chooseOut_rts t) (congrArg Prt.peers (chooseOut_prt t))

theorem afterEvent_books : KeepsBooks s (afterEvent t) := chooseOut_books (beginAll_books k)

end

end Sys2Proof.Machine
end

section
/-! PROOFS. The books under requests, restarts and completions; a grant touches the record that it is given to alone, so that
an admitted record fills a handle that is still VACANT. -/

namespace Sys2Proof.Machine

/-! ## Records that a grant leaves alone (R132) -/

section
variable {s : State} {h j : Nat}

theorem updConv_conv_other {f : Conv → Conv} (hj : j ≠ h) : (updConv h f s).conv j = s.conv j := by
  unfold updConv
  split
  · rfl
  · exact (State.conv_setConv ..).trans (if_neg hj.symm)

theorem park_conv_other (hj : j ≠ h) : (park h s).conv j = s.conv j :=
  updConv_conv_other (f := fun c => { c with state := .parked, active := none, parkStart := some s.now, forced := none }) hj

theorem queueOpt2_convs (p : Path) (f : Option QFrame) (s : State) : (queueOpt (queue2 p) f s).convs = s.convs := by
  cases f <;> rfl

/-- A slot's choice touches its own conversation alone. -/
theorem chooseCore_conv_other {k : Nat} (hs : ∀ sl, s.slot k = some sl → sl.handle ≠ j) :
    (chooseCore k s).conv j = s.conv j := by
  unfold chooseCore
  split
  · rfl
  · rename_i sl hsl
    split
    · rfl
    · split
      · exact State.conv_congr (queueOpt2_convs ..) j
      · exact park_conv_other (s := freeSlot k s) (hs sl hsl).symm

theorem lapseCore_conv_other (why : LapseReason) (hj : j ≠ h) : (lapseCore h why s).conv j = s.conv j := by
  unfold lapseCore
  split
  · rfl
  · split
    · rfl
    · exact (State.conv_setConv ..).trans (if_neg hj.symm)

theorem applyStaged_conv_other (c : Conv) (hj : j ≠ h) : (applyStaged h c s).conv j = s.conv j := by
  unfold applyStaged
  split
  · rfl
  · exact (State.conv_setConv ..).trans (if_neg hj.symm)

/-- A grant touches the conversation that it is given to alone. -/
theorem grant_conv_other (k : Nat) (hj : j ≠ h) : (grant k h s).conv j = s.conv j := by
  unfold grant
  split
  · rfl
  · rename_i c hc
    split
    · exact lapseCore_conv_other _ hj
    · have hu : ∀ v, (raiseConv h .shiftBegun (setSlot k v
          (updConv h (fun c => { c with state := .shifting, sendShift := c.sendShift + 1 }) (applyStaged h c s)))).conv j =
          s.conv j := fun _ => (updConv_conv_other hj).trans (applyStaged_conv_other c hj)
      simp only
      split
      · rw [chooseCore_conv_other, hu]
        intro sl hsl
        rw [show sl = _ from Option.some.inj (hsl.symm.trans (KMap.get?_set_same _ _ _))]
        exact hj.symm
      · exact hu _

/-- A grant to a VACANT handle does nothing. -/
theorem grant_vacant (k : Nat) (hc : s.conv h = none) : grant k h s = s := by
  unfold grant
  rw [hc]

/-- A grant adds nothing to the queue. -/
theorem mem_queue_of_grant {k : Nat} {e : QueueEntry} (he : e ∈ (grant k h s).she.queue) : e ∈ s.she.queue := by
  have hst : ∀ c, (applyStaged h c s).she = s.she := by
    intro c
    unfold applyStaged
    split <;> rfl
  have hupd : ∀ (f : Conv → Conv) (t : State), (updConv h f t).she = t.she := by
    intro f t
    unfold updConv
    split <;> rfl
  unfold grant at he
  split at he
  · exact he
  · split at he
    · rcases lapseCore_queue h .notKnown s with hq | hq
      · rwa [hq] at he
      · rw [hq] at he
        exact (List.mem_filter.1 he).1
    · simp only at he
      split at he
      · simpa [chooseCore_queue, hst, hupd] using he
      · simpa [hst, hupd] using he

/-- The grants leave every record whose handle does not wait in the queue, and every VACANT one. -/
theorem grants_conv_other : ∀ (n : Nat) {s : State}, (∀ e ∈ s.she.queue, e.handle = j → s.conv j = none) →
    (grants n s).conv j = s.conv j
  | 0, _, _ => rfl
  | n + 1, s, hq => by
    unfold grants
    split
    · rename_i e rest k hqueue hk
      have hrest : ∀ f ∈ rest, f.handle = j → s.conv j = none := fun f hf => hq f (hqueue ▸ List.mem_cons_of_mem _ hf)
      have hg : (grant k e.handle { s with she := { s.she with queue := rest } }).conv j = s.conv j := by
        by_cases he : e.handle = j
        · have hv : s.conv j = none := hq e (hqueue ▸ List.mem_cons_self) he
          rw [grant_vacant k (show State.conv { s with she := { s.she with queue := rest } } e.handle = none by
            rw [he]; exact hv)]
          rfl
        · exact grant_conv_other k (Ne.symm he)
      rw [grants_conv_other n, hg]
      intro f hf hfj
      rw [hg]
      exact hrest f (mem_queue_of_grant hf) hfj
    · rfl

theorem grantAll_conv_other (hq : ∀ e ∈ s.she.queue, e.handle ≠ j) : (grantAll s).conv j = s.conv j :=
  grants_conv_other _ fun e he hej => absurd hej (hq e he)

theorem grantAll_vacant (hv : s.conv j = none) : (grantAll s).conv j = none :=
  (grants_conv_other _ fun _ _ _ => hv).trans hv

/-- Displacement brings no record into use (R9). -/
theorem displaceOne_keeps_vacant (i : Nat) (hv : s.conv j = none) : (displaceOne i s).conv j = none := by
  by_cases hj : j = i
  · subst hj
    have hu : updConv j (fun c => { c with peerHandle := none }) s = s := by
      unfold updConv
      rw [hv]
    unfold displaceOne lapse lapseCore
    rw [hu, hv]
    exact grantAll_vacant hv
  · exact grantAll_vacant ((lapseCore_conv_other _ hj).trans ((updConv_conv_other hj).trans hv))

theorem displace_keeps_vacant (k ph i : Nat) (hv : s.conv j = none) : (displace k ph i s).conv j = none :=
  forEach_keeps (fun t => t.conv j = none) displaceOne (fun a _ ht => displaceOne_keeps_vacant a ht) _ s hv

end

/-- The lowest VACANT handle holds nothing (R4). -/
theorem conv_lowestVacant {s : State} {h : Nat} (hv : s.lowestVacant = some h) : s.conv h = none :=
  (((KMap.lowestFree_spec _ _).2 h).1 hv).2.1

section
variable {s t : State} (k : KeepsBooks s t)
include k

/-! ## Requests -/

theorem openAttempt_books (h : Nat) (p : Path) (n : Nat) : KeepsBooks s (openAttempt h p n t) := by
  unfold openAttempt
  split
  · exact k
  · exact queueOpt2_books (setConv_books k (by assumption) (by rfl)) p _

theorem openFrom_books (h : Nat) (l : List Path) : KeepsBooks s (openFrom h l t) := by
  unfold openFrom
  split
  · exact k
  · split
    · exact openAttempt_books k h _ 1
    · exact lapse_books k h _

theorem ownOpen_books (a : OpenArgs) : KeepsBooks s (ownOpen a t).state := by
  unfold ownOpen
  split
  · exact k
  split
  · exact k
  rename_i h hv
  split
  · exact k
  split
  · exact k
  split
  · exact k
  split
  · exact k
  · exact openFrom_books (setConv_new_books k (conv_lowestVacant hv) rfl) h _

omit k in
theorem conv_of_recordOf {s : State} {h : Nat} {c : Conv} (hr : s.recordOf h = some c) : s.conv h = some c := by
  unfold State.recordOf at hr
  split at hr
  · exact hr
  · cases hr

theorem closeGracefully_books {h : Nat} {c : Conv} (hc : t.conv h = some c) :
    KeepsBooks s (closeGracefully h c t).state := by
  unfold closeGracefully
  split
  · exact checkClose_books (setConv_books k hc (by rfl)) h
  · exact k

theorem closeAborting_books (h : Nat) (c : Conv) : KeepsBooks s (closeAborting h c t).state := by
  unfold closeAborting
  simp only
  split
  · exact vacate_books (queueOpt2_books k _ _) h
  · exact vacate_books k h

theorem ownClose_books (h m : Nat) : KeepsBooks s (ownClose h m t).state := by
  unfold ownClose
  split
  · exact k
  · rename_i c hr
    split
    · exact k
    · split
      · exact vacate_books k h
      · split
        · exact closeGracefully_books k (conv_of_recordOf hr)
        · exact closeAborting_books k h c

theorem ownHold_books (h d : Nat) : KeepsBooks s (ownHold h d t).state := by
  unfold ownHold
  split
  · exact k
  · rename_i c hr
    split
    · exact k
    · split
      · exact k
      · exact setConv_books k (conv_of_recordOf hr) (by rfl)

theorem ownRelease_books (h : Nat) : KeepsBooks s (ownRelease h t).state := by
  unfold ownRelease
  split
  · exact k
  · rename_i c hr
    have k1 := setConv_books (d := { c with hold := none }) k (conv_of_recordOf hr) (by rfl)
    split
    · simp only
      split
      · exact enterQueue_books k1 h
      · exact k1
    · split <;> exact k

theorem forceShift_books {h : Nat} {c : Conv} (hc : t.conv h = some c) (target : Option Path) :
    KeepsBooks s (forceShift h c target t) := by
  unfold forceShift
  split
  · exact shiftCause_books (setConv_books k hc (by rfl)) false h
  · exact enterQueue_books (setConv_books k hc (by rfl)) h
  · exact enterQueue_books (setConv_books k hc (by rfl)) h

theorem ownShift_books (h : Nat) (target : Option Nat) : KeepsBooks s (ownShift h target t).state := by
  unfold ownShift
  split
  · exact k
  · rename_i c hr
    split
    · exact k
    · split
      · exact k
      · exact k
      · exact k
      · exact k
      · exact forceShift_books k (conv_of_recordOf hr) _

theorem ownRestage_books (h : Nat) (l : List Nat) : KeepsBooks s (ownRestage h l t).state := by
  unfold ownRestage
  split
  · exact k
  · rename_i c hr
    split
    · exact k
    · split
      · exact k
      · exact quietPoint_books (setConv_books k (conv_of_recordOf hr) (by rfl)) h

/-- The accepted SEND takes one cell off the free list and adds one record (R31). -/
theorem acceptSend_books {h q n : Nat} {c : Conv} {kind : RecKind} {payload : List Byte} {u : State}
    (hc : t.conv h = some c) (hu : issueCell payload t = some (n, u)) :
    KeepsBooks s (acceptSend h c q kind payload n u).state := by
  unfold issueCell at hu
  split at hu
  · cases hu
  · rename_i m rest hfree
    obtain ⟨rfl, rfl⟩ := Prod.mk.inj (Option.some.inj hu)
    refine books_of_rewrite k hc rfl rfl (fun hs => KMap.wf_set hs m payload) ?_
    simp [acceptSend, Conv.held, hfree]
    omega

theorem ownSend_books (h kind : Nat) (payload : List Byte) : KeepsBooks s (ownSend h kind payload t).state := by
  unfold ownSend
  split
  · exact k
  rename_i c hr
  split
  · exact k
  split
  · exact k
  split
  · exact k
  split
  · exact k
  split
  · exact k
  split
  · exact k
  · exact acceptSend_books k (conv_of_recordOf hr) (by assumption)

/-- The record that leaves the journal returns its cell (R50). -/
theorem ownClearReturned_books (h q : Nat) : KeepsBooks s (ownClearReturned h q t).state := by
  unfold ownClearReturned
  split
  · exact k
  rename_i c hr
  split
  · exact k
  split
  · exact k
  · rename_i x hx
    refine returnCells_books k (conv_of_recordOf hr) ?_
    have hmem := List.mem_of_find?_eq_some hx
    have hpos := List.length_pos_of_mem hmem
    have hlen := List.length_eraseP_of_mem hmem (List.find?_some hx)
    simp only [Conv.held, List.length_singleton, hlen]
    omega

theorem ownAddPeer_books (a : AddPeerArgs) : KeepsBooks s (ownAddPeer a t).state := by
  unfold ownAddPeer
  split
  · exact k
  split
  · exact k
  split
  · exact k
  split
  · exact k
  · exact books_of_peers k rfl rfl fun hp => KMap.wf_set hp _ _

theorem removalTest_books (n : Nat) (e : Peer) (p : Path) : KeepsBooks s (removalTest n e p t) := by
  unfold removalTest
  split
  · exact handCondition_books k _ _ p
  · exact k

theorem ownRemovePeer_books (n : Nat) : KeepsBooks s (ownRemovePeer n t).state := by
  unfold ownRemovePeer
  split
  · split
    · exact k
    · split
      · exact k
      · exact books_of_peers (forEach_books (books_of_same (u := withdrawProbes _ t) k rfl rfl rfl)
          fun p _ ku => removalTest_books ku n _ p) rfl rfl fun hp => KMap.wf_erase hp n
  · exact k

theorem ownSetPath_books (n : Nat) (a : SetPathArgs) : KeepsBooks s (ownSetPath n a t).state := by
  unfold ownSetPath
  split
  · exact k
  · split
    · exact k
    · split
      · exact k
      · exact updPath_books k _ _

theorem ownQuench_books (n : Nat) : KeepsBooks s (ownQuench n t).state := by
  unfold ownQuench
  split
  · exact k
  · split
    · exact quenchPath_books k _ _
    · exact k

theorem ownRevive_books (n : Nat) : KeepsBooks s (ownRevive n t).state := by
  unfold ownRevive
  split
  · exact k
  · split
    · exact k
    · split
      · exact k
      · exact revive_books 4 _ k

theorem ownDrain_books (n : Nat) : KeepsBooks s (ownDrain n t).state := by
  unfold ownDrain
  split
  · exact k
  · split
    · exact k
    · exact drainPath_books k _

theorem ownSetStation_books (a : SetStationArgs) : KeepsBooks s (ownSetStation a t).state := by
  unfold ownSetStation
  split
  · exact k
  · split
    · exact k
    · split
      · exact k
      · exact books_of_same k rfl rfl rfl

theorem ownSetNoticeMask_books (l : List Nat) : KeepsBooks s (ownSetNoticeMask l t).state := by
  unfold ownSetNoticeMask
  split
  · exact k
  · exact ntu_books k _

theorem ownRestart_books (n : Nat) : KeepsBooks s (ownRestart n t).state := by
  unfold ownRestart
  split
  · exact k
  · exact updHlu_books k _

/-! The reading requests leave the state as it stands (R24, R25, R51, R91, R112). -/

theorem ownReadConversation_books (h : Nat) : KeepsBooks s (ownReadConversation h t).state := by
  unfold ownReadConversation
  (repeat' split) <;> exact k

theorem ownReadJournal_books (h : Nat) : KeepsBooks s (ownReadJournal h t).state := by
  unfold ownReadJournal
  (repeat' split) <;> exact k

theorem ownScan_books (st n d : Nat) (l : List Nat) : KeepsBooks s (ownScan st n d l t).state := by
  unfold ownScan
  split <;> exact k

theorem ownReadPeer_books (n : Nat) : KeepsBooks s (ownReadPeer n t).state := by
  unfold ownReadPeer
  (repeat' split) <;> exact k

theorem ownReadPath_books (n : Nat) : KeepsBooks s (ownReadPath n t).state := by
  unfold ownReadPath
  split <;> exact k

theorem ownRequest_books (r : Request) : KeepsBooks s (ownRequest r t).state := by
  cases r with
  | openConv a => exact ownOpen_books k a
  | close h m => exact ownClose_books k h m
  | hold h d => exact ownHold_books k h d
  | release h => exact ownRelease_books k h
  | shift h n => exact ownShift_books k h n
  | restage h l => exact ownRestage_books k h l
  | clearReturned h q => exact ownClearReturned_books k h q
  | readConversation h => exact ownReadConversation_books k h
  | readJournal h => exact ownReadJournal_books k h
  | scan st n d f => exact ownScan_books k st n d f
  | addPeer a => exact ownAddPeer_books k a
  | removePeer n => exact ownRemovePeer_books k n
  | readPeer n => exact ownReadPeer_books k n
  | setPath n a => exact ownSetPath_books k n a
  | quench n => exact ownQuench_books k n
  | revive n => exact ownRevive_books k n
  | drain n => exact ownDrain_books k n
  | readPath n => exact ownReadPath_books k n
  | setStation a => exact ownSetStation_books k a
  | readStation => exact k
  | setNoticeMask l => exact ownSetNoticeMask_books k l
  | restart n => exact ownRestart_books k n

theorem decideTaking_books (x : Taking) : KeepsBooks s (decideTaking x t) := by
  cases x with
  | bad => exact updHlu_books k _
  | unknown tag code => exact updHlu_books k _
  | malformed tag code => exact updHlu_books k _
  | send tag h n len payload => exact updHlu_books (ownSend_books k h n payload) _
  | request tag r => exact updHlu_books (ownRequest_books k r) _

theorem takeHead_books : KeepsBooks s (takeHead t) := by
  unfold takeHead
  split
  · exact k
  · exact decideTaking_books (updHlu_books k _) _

omit k in
theorem intake_books : ∀ (n : Nat) {t : State}, KeepsBooks s t → KeepsBooks s (intake n t)
  | 0, _, k => k
  | n + 1, _, k => by
    unfold intake
    split
    · exact intake_books n (afterEvent_books (takeHead_books k))
    · exact k

theorem endRecord_books (e : RecordEnd) : KeepsBooks s (endRecord e t) := intake_books _ (updHlu_books k _)

theorem hostRecord_books (e : RecordEnd) : KeepsBooks s (hostRecord e t) := by
  unfold hostRecord
  split
  · exact endRecord_books (updHlu_books k _) e
  · exact k

theorem octetArrived_books (o : Byte) : KeepsBooks s (octetArrived o t) := by
  unfold octetArrived
  split
  · simp only
    split
    · exact afterEvent_books (updHlu_books k _)
    · exact endRecord_books (updHlu_books k _) _
  · exact k

/-! ## Restarts -/

omit k in
/-- A start leaves empty tables and every cell free (R52). -/
theorem books_of_start (s : State) {u : State} (hc : u.convs = []) (hr : u.rts = Rts.atStart) (hp : u.prt.peers = []) :
    KeepsBooks s u := by
  refine ⟨fun _ => ?_, fun _ => ⟨⟨?_, ?_⟩, ?_⟩⟩
  · rw [StoreCanonical, hr]
    rfl
  · rw [hc]
    rfl
  · rw [hp]
    rfl
  · simp [CellsBalance, State.journalCells, hr, hc, Rts.atStart]

omit k in
theorem KMap.keys_mapVals {α β : Type} (f : α → β) (m : KMap α) : KMap.keys (KMap.mapVals f m) = KMap.keys m := by
  simp [KMap.keys, KMap.mapVals]

omit k in
theorem KMap.wf_mapVals {α β : Type} (f : α → β) {m : KMap α} (h : m.wf = true) : (KMap.mapVals f m).wf = true := by
  rw [KMap.wf, KMap.keys_mapVals]
  exact h

omit k in
theorem Conv.warm_held (n : Nat) (c : Conv) : (c.warm n).held = c.held := by
  show (if c.state = .opening then makeUnsure c.journal else c.journal).length = c.journal.length
  split
  · exact makeUnsure_length _
  · rfl

/-- A warm restart keeps the records with their journals, the store and the peers (R26, R52, R122). -/
theorem warmRestart_books : KeepsBooks s (warmRestart t) := by
  refine k.trans ⟨id, fun ⟨ht, hb⟩ => ⟨⟨KMap.wf_mapVals _ ht.1, KMap.wf_mapVals _ ht.2⟩, ?_⟩⟩
  have htotal : KMap.total Conv.held (warmRestart t).convs = KMap.total Conv.held t.convs := by
    simp [warmRestart, KMap.total, KMap.mapVals, List.map_map, Function.comp_def, Conv.warm_held]
  rw [CellsBalance, journalCells_length] at hb ⊢
  rw [htotal]
  exact hb

theorem replyLeft_books (r : Reply) : KeepsBooks s (replyLeft r t) := by
  unfold replyLeft
  split
  · exact updHlu_books k _
  · rename_i x _
    split
    · cases x with
      | cold => exact books_of_start s rfl rfl rfl
      | warm => exact warmRestart_books (updHlu_books k _)
    · exact updHlu_books k _

/-! ## Completions -/

theorem deliverLeft_books : KeepsBooks s (deliverLeft t) := by
  unfold deliverLeft
  split
  · exact requestAck_books (updConv_books (dlq_books k _) (by intro _; rfl)) _ _ _
  · exact dlq_books k _

theorem afterCompletion_books : KeepsBooks s (afterCompletion t) := intake_books _ (afterEvent_books k)

theorem replyDone_books : KeepsBooks s (replyDone t) := by
  unfold replyDone
  split
  · exact afterCompletion_books (replyLeft_books k _)
  · exact k

theorem deliverDone_books : KeepsBooks s (deliverDone t) := by
  unfold deliverDone
  split
  · exact afterCompletion_books (deliverLeft_books (updHlu_books k _))
  · exact k

theorem noticeDone_books : KeepsBooks s (noticeDone t) := by
  unfold noticeDone
  split
  · exact afterCompletion_books (updHlu_books k _)
  · exact k

theorem frameLeft_books (p : Path) : KeepsBooks s (frameLeft p t) := by
  unfold frameLeft
  simp only
  split
  · exact k
  · split
    · exact chooseOut_books (updPath_books k p _)
    · exact afterEvent_books (updPath_books k p _)

end

end Sys2Proof.Machine
end

section
/-! PROOFS. The books under frames, timers and samples, and so under every command and every step. -/

namespace Sys2Proof.Machine

section
variable {s t : State} (k : KeepsBooks s t)
include k

/-! ## Settling (Machine/Settling.lean) -/

/-- Covered records leave the journal and return as many cells (R36). -/
theorem settleJournal_books (h d : Nat) (x : Option Nat) : KeepsBooks s (settleJournal h d x t) := by
  unfold settleJournal
  split
  · exact k
  · rename_i c hc
    refine returnCells_books k hc ?_
    rw [List.length_map]
    exact (List.length_eq_length_filter_add _).symm

theorem settleCredit_books (credit : Option Path) : KeepsBooks s (settleCredit credit t) := by
  unfold settleCredit
  split
  · exact k
  · exact lowerScore_books k _

theorem settleAdvance_books (h d : Nat) (credit : Option Path) : KeepsBooks s (settleAdvance h d credit t) :=
  afterChecks_books (settleCredit_books
    (raiseConv_books (updConv_books (settleJournal_books k h d none) (by intro _; rfl)) h _) credit) h

theorem settleOn_books (h d : Nat) (credit : Option Path) : KeepsBooks s (settleOn h d credit t) := by
  unfold settleOn
  split
  · exact k
  · split
    · exact settleAdvance_books k h d credit
    · exact k

theorem startPause_books (h : Nat) : KeepsBooks s (startPause h t) := by
  unfold startPause
  split
  · exact k
  · split
    · exact setConv_books k (by assumption) (by rfl)
    · exact k

theorem voidRecord_books (h v : Nat) : KeepsBooks s (voidRecord h v t) :=
  raiseConv_books (updConv_books (f := fun c => { c with journal := makeReturned v c.journal, settled := max c.settled v }) k
    fun _ => makeReturned_length ..) h _

theorem inquiryVoided_books (h v d : Nat) (c : Conv) : KeepsBooks s (inquiryVoided h v d c t) := by
  unfold inquiryVoided
  simp only
  split
  · exact afterChecks_books
      (raiseConv_books (updConv_books (voidRecord_books (settleJournal_books k h d _) h v) (by intro _; rfl)) h _) h
  · exact afterChecks_books (raiseConv_books (updConv_books (voidRecord_books k h v) (by intro _; rfl)) h _) h

theorem inquiryKept_books (h d : Nat) (c : Conv) : KeepsBooks s (inquiryKept h d c t) := by
  have k1 := updConv_books (h := h) (f := fun c =>
    { c with retryCount := 0
             ackTimer := if hasSent c.journal then .ackWait (t.after c.ackInterval) else .stopped }) k (by intro _; rfl)
  unfold inquiryKept
  simp only
  split
  · exact settleAdvance_books k1 h d none
  · exact k1

theorem applyInquiryAnswer_books (h : Nat) (c : Conv) (out : AnswerOutcome) (d : Nat) :
    KeepsBooks s (applyInquiryAnswer h c out d t) := by
  unfold applyInquiryAnswer
  split
  · exact inquiryVoided_books k h _ d c
  · exact inquiryKept_books k h d c
  · exact inquiryKept_books k h d c
  · exact k

theorem shiftSettle_books (h d : Nat) (x : Option Nat) : KeepsBooks s (shiftSettle h d x t) := by
  unfold shiftSettle
  split
  · exact k
  · split
    · exact raiseConv_books (settleJournal_books k h d x) h _
    · exact k

theorem shiftVoid_books (h : Nat) (v : Option Nat) (out : AnswerOutcome) : KeepsBooks s (shiftVoid h v out t) := by
  unfold shiftVoid
  split
  · split
    · exact voidRecord_books k h _
    · exact k
  · exact k

theorem startCarrying_books (h : Nat) : KeepsBooks s (startCarrying h t) := by
  unfold startCarrying
  split
  · exact k
  · split
    · exact setConv_books k (by assumption) (by rfl)
    · exact k

theorem applyShiftAnswer_books (h n : Nat) (sl : Slot) (p : Path) (out : AnswerOutcome) (d : Nat) :
    KeepsBooks s (applyShiftAnswer h n sl p out d t) :=
  have k2 := updConv_books (h := h) (f := fun c => c.carried p)
    (shiftVoid_books (shiftSettle_books k h d (voidExcept sl.void out)) h sl.void out) fun _ => goBack_length _
  afterChecks_books (startCarrying_books (raiseConv_books (grantAll_books (freeSlot_books k2 n)) h _) h) h

theorem takeAnswer_books (h : Nat) (p : Path) (n : Nat) (out : AnswerOutcome) (v : Option Nat) (d : Nat) :
    KeepsBooks s (takeAnswer h p n out v d t) := by
  unfold takeAnswer
  split
  · exact k
  · split
    · exact lapse_books k h _
    · unfold applyAnswer
      split
      · split
        · exact applyInquiryAnswer_books k h _ out d
        · exact k
      · split
        · exact k
        · split
          · exact applyShiftAnswer_books k h _ _ p out d
          · exact k
      · exact k

/-! ## Frames (Machine/Inbound.lean) -/

theorem answerFrame_books (p : Path) (n : Nat) (src dst : Option Nat) (m : Nat) (b : FrameBody) (o : Option Nat) :
    KeepsBooks s (answerFrame p n src dst m b o t) := queueOpt1_books k p _

theorem displaceOne_books (j : Nat) : KeepsBooks s (displaceOne j t) := lapse_books (updConv_books k (by intro _; rfl)) j _

theorem displace_books (n ph h : Nat) : KeepsBooks s (displace n ph h t) :=
  forEach_books k fun j _ ku => displaceOne_books ku j

theorem acceptOpening_books (h : Nat) (c : Conv) (ph : Nat) (p : Path) : KeepsBooks s (acceptOpening h c ph p t) := by
  have k1 := updConv_books (h := h) (f := fun c => { c with peerHandle := some ph, openTimer := none, openAttempt := none })
    (displace_books k c.peer ph h) (by intro _; rfl)
  unfold acceptOpening
  simp only
  split
  · exact afterChecks_books (raiseConv_books (updConv_books k1 (by intro _; rfl)) h _) h
  · exact raiseConv_books (park_books k1 h) h _

theorem implicitAccept_books (h : Nat) (c : Conv) (src : Option Nat) (p : Path) :
    KeepsBooks s (implicitAccept h c src p t) := by
  unfold implicitAccept
  split
  · split
    · exact acceptOpening_books k h c _ p
    · exact k
  · exact k

theorem takeOpenReply_books (p : Path) (n : Nat) (f : RxFrame) (b : Bool) : KeepsBooks s (takeOpenReply p n f b t) := by
  unfold takeOpenReply
  split
  · split
    · split
      · exact acceptOpening_books k _ _ _ p
      · exact lapse_books k _ _
    · exact k
  · split
    · exact queueOpt2_books k p _
    · exact k

/-- The admitted record fills a handle that displacement leaves VACANT (R9, R14). -/
theorem admitConv_books {h : Nat} (n : Nat) (e : Peer) (ph : Nat) (p : Path) (hv : t.conv h = none) :
    KeepsBooks s (admitConv h n e ph p t) := by
  have k2 := answerFrame_books (raiseConv_books (setConv_new_books (d := admitted n e ph) (displace_books k n ph h)
    (displace_keeps_vacant n ph h hv) rfl) h .openedByPeer) p n (some h) (some ph) 0 (.openReply true) (some h)
  unfold admitConv
  simp only
  split
  · exact updConv_books k2 (by intro _; rfl)
  · exact park_books k2 h

theorem takeOpen_books (p : Path) (n ph : Nat) : KeepsBooks s (takeOpen p n ph t) := by
  unfold takeOpen
  split
  · exact k
  · split
    · exact answerFrame_books k ..
    · split
      · exact answerFrame_books k ..
      · rename_i h hv
        refine admitConv_books k n _ ph p (conv_lowestVacant ?_)
        split at hv
        · exact hv
        · cases hv

theorem takeData_books (h : Nat) (p : Path) (n q : Nat) (kind : RecKind) (pl : List Byte) :
    KeepsBooks s (takeData h p n q kind pl t) := by
  unfold takeData
  split
  · exact k
  rename_i c hc
  split
  · exact k
  have k1 := setConv_books (d := { c with inShift := n }) k hc (by rfl)
  simp only
  split
  · split
    · exact setConv_books (dlq_books k1 _) (State.conv_setConv_same h _ t) (by rfl)
    · exact requestAck_books k1 h _ _
  · exact requestAck_books k1 h _ _

theorem takeInquiry_books (h : Nat) (p : Path) (n : Nat) (v : Option Nat) : KeepsBooks s (takeInquiry h p n v t) := by
  unfold takeInquiry
  split
  · exact k
  · exact answerFrame_books (setConv_books k (by assumption) (by rfl)) ..

theorem closeCompletion_books (h : Nat) : KeepsBooks s (closeCompletion h t) := by
  unfold closeCompletion
  split
  · exact k
  · split
    · exact vacate_books k h
    · exact k

theorem takeClose_books (h : Nat) (p : Path) (n : Nat) : KeepsBooks s (takeClose h p n t) := by
  unfold takeClose
  split
  · exact k
  · split
    · simp only
      split
      · exact closeCompletion_books (answerFrame_books k ..) h
      · exact closeCompletion_books (raiseConv_books (updConv_books (answerFrame_books k ..) (by intro _; rfl)) h _) h
    · exact k

theorem takeCloseReply_books (h n : Nat) : KeepsBooks s (takeCloseReply h n t) := by
  unfold takeCloseReply
  split
  · exact k
  · split
    · exact closeCompletion_books (setConv_books k (by assumption) (by rfl)) h
    · exact k

theorem takeUnbound_books (p : Path) (n : Nat) (f : RxFrame) : KeepsBooks s (takeUnbound p n f t) := by
  unfold takeUnbound
  split
  · exact answerFrame_books k ..
  · exact answerFrame_books k ..
  · exact answerFrame_books k ..
  · exact k

theorem boundRule_books (was : ConvState) (h : Nat) (p : Path) (f : RxFrame) :
    KeepsBooks s (boundRule was h p f t) := by
  unfold boundRule
  split
  · exact takeData_books k ..
  · exact settleOn_books k ..
  · unfold takeWaitFrom
    split
    · exact settleOn_books k ..
    · exact startPause_books (settleOn_books k ..) h
  · exact takeInquiry_books k ..
  · exact takeAnswer_books k ..
  · exact takeClose_books k ..
  · exact takeCloseReply_books k ..
  · exact k

theorem takeAddressed_books (p : Path) (n : Nat) (f : RxFrame) : KeepsBooks s (takeAddressed p n f t) := by
  unfold takeAddressed
  split
  · exact takeUnbound_books k p n f
  · split
    · unfold takeAbandon
      split
      · exact lapse_books k _ _
      · exact k
    · exact boundRule_books (implicitAccept_books k _ _ _ p) _ _ p f

theorem conversationRule_books (p : Path) (n : Nat) (f : RxFrame) : KeepsBooks s (conversationRule p n f t) := by
  unfold conversationRule
  split
  · split
    · exact takeOpen_books k p n _
    · exact k
  · exact takeOpenReply_books k p n f _
  · exact takeAddressed_books k p n f

theorem hear_books (p : Path) (sender : Option Nat) : KeepsBooks s (hear p sender t) := by
  unfold hear
  split
  · exact k
  · exact hearPeer_books k _ p

theorem echo_books (p : Path) (sender : Option Nat) : KeepsBooks s (echo p sender t) := by
  unfold echo
  split
  · exact k
  · split
    · exact answerFrame_books k ..
    · exact k

theorem frameCue_books (p : Path) (sender : Option Nat) : KeepsBooks s (frameCue p sender t) := by
  unfold frameCue
  split
  · exact k
  · exact cueAll_books k _ p

theorem takeAtTable_books (p : Path) (sender : Option Nat) (f : RxFrame) : KeepsBooks s (takeAtTable p sender f t) := by
  unfold takeAtTable
  split
  · exact k
  · exact conversationRule_books k p _ f

theorem answerCredit_books (p : Path) (f : RxFrame) : KeepsBooks s (answerCredit p f t) := by
  unfold answerCredit
  split
  · exact lowerScore_books k p
  · exact k

theorem takeFrame_books (p : Path) (f : RxFrame) : KeepsBooks s (takeFrame p f t) := by
  have k1 := hear_books k p (t.senderOn p f.srcNode)
  unfold takeFrame
  split
  · exact k
  · exact k
  · unfold takeQuenched
    simp only
    split
    · exact echo_books k1 p _
    · exact k1
  · unfold takeLive
    simp only
    split
    · exact frameCue_books (echo_books k1 p _) p _
    · exact frameCue_books k1 p _
    · exact frameCue_books (takeAtTable_books (answerCredit_books k1 p f) p _ f) p _

theorem checkAndTake_books (p : Path) (hd : RxHead) (b : RxBody) : KeepsBooks s (checkAndTake p hd b t) := by
  unfold checkAndTake
  split
  · exact k
  · split
    · exact addScore_books k p 4
    · split
      · exact k
      · exact takeFrame_books k p _

theorem receive_books (p : Path) (hd : RxHead) (b : RxBody) : KeepsBooks s (receive p hd b t) := by
  unfold receive
  split
  · exact checkAndTake_books k p hd b
  · exact k

theorem receiveOctets_books (p : Path) (l : List Byte) : KeepsBooks s (receiveOctets p l t) := by
  unfold receiveOctets
  split
  · exact k
  · split
    · exact addScore_books k p 4
    · split
      · exact k
      · split
        · exact addScore_books k p 4
        · exact checkAndTake_books k p _ _

/-! ## Timers and samples (Machine/Timers.lean) -/

theorem queueInquiry_books (h : Nat) (c : Conv) (p : Path) (v : Nat) : KeepsBooks s (queueInquiry h c p v t) :=
  queueOpt2_books k p _

theorem roundAction_books (h : Nat) : KeepsBooks s (roundAction h t) := by
  unfold roundAction
  split
  · exact k
  · rename_i c hc
    split
    · split
      · exact quietPoint_books (setConv_books (d := { c with journal := goBack c.journal, ackTimer := .stopped }) k hc
          (goBack_length _)) h
      · exact queueInquiry_books (setConv_books k hc (by rfl)) h _ _ _
    · exact k

theorem scoreActive_books (c : Conv) (n : Nat) : KeepsBooks s (scoreActive c n t) := by
  unfold scoreActive
  split
  · exact k
  · exact addScore_books k _ n

theorem countRound_books (h : Nat) (c : Conv) : KeepsBooks s (countRound h c t) :=
  updConv_books (scoreActive_books k c 16) (by intro _; rfl)

theorem ackTimerEnds_books (h : Nat) : KeepsBooks s (ackTimerEnds h t) := by
  unfold ackTimerEnds
  split
  · exact k
  · split
    · have k1 := fun e => advanceTo_books k e
      unfold ackExpired
      split
      · exact roundAction_books (countRound_books (k1 _) h _) h
      · exact shiftCause_books (k1 _) true h
    · exact k

theorem inquiryAction_books (h a v e : Nat) : KeepsBooks s (inquiryAction h a v e t) := by
  unfold inquiryAction
  split
  · exact k
  · split
    · exact k
    · split
      · split
        · exact queueInquiry_books (setConv_books k (by assumption) (by rfl)) h _ _ v
        · exact shiftCause_books k true h
      · exact k

theorem inquiryTimerEnds_books (h : Nat) : KeepsBooks s (inquiryTimerEnds h t) := by
  unfold inquiryTimerEnds
  split
  · exact k
  · split
    · exact inquiryAction_books (scoreActive_books (advanceTo_books k _) _ 16) h _ _ _
    · exact k

theorem waitPauseEnds_books (h : Nat) : KeepsBooks s (waitPauseEnds h t) := by
  unfold waitPauseEnds
  split
  · exact k
  · rename_i c hc
    split
    · exact k
    · exact quietPoint_books (setConv_books (d := c.resumed _) (advanceTo_books k _) hc (goBack_length _)) h

theorem openTimerEnds_books (h : Nat) : KeepsBooks s (openTimerEnds h t) := by
  unfold openTimerEnds
  split
  · exact k
  · split
    · unfold nextAttempt
      split
      · exact openAttempt_books (advanceTo_books k _) h _ 2
      · exact openFrom_books (advanceTo_books k _) h _
    · exact k

theorem closeAction_books (h : Nat) : KeepsBooks s (closeAction h t) := by
  unfold closeAction
  split
  · exact k
  · split
    · exact queueOpt2_books (setConv_books k (by assumption) (by rfl)) _ _
    · exact k

theorem closeTimerEnds_books (h : Nat) : KeepsBooks s (closeTimerEnds h t) := by
  unfold closeTimerEnds
  split
  · exact k
  · split
    · exact k
    · simp only
      split
      · exact closeAction_books (countRound_books (advanceTo_books k _) h _) h
      · exact shiftCause_books (advanceTo_books k _) true h

theorem holdEnds_books (h : Nat) : KeepsBooks s (holdEnds h t) := by
  unfold holdEnds
  split
  · exact k
  · rename_i c hc
    split
    · exact k
    · rename_i e _
      have k1 := raiseConv_books (setConv_books (d := { c with hold := none, holdExpired := true })
        (advanceTo_books k e) hc (by rfl)) h .holdExpired
      simp only
      split
      · exact enterQueue_books k1 h
      · exact k1

theorem parkEnds_books (h : Nat) : KeepsBooks s (parkEnds h t) := by
  unfold parkEnds
  split
  · exact k
  · split
    · exact k
    · split
      · exact lapse_books (advanceTo_books k _) h _
      · exact k

theorem holdOffEnds_books (n : Nat) : KeepsBooks s (holdOffEnds n t) := by
  unfold holdOffEnds
  split
  · exact k
  · split
    · exact choose_books (advanceTo_books k _) n
    · exact k

theorem giveUp_books (n : Nat) (sl : Slot) (p : Path) : KeepsBooks s (giveUp n sl p t) := by
  have k1 := setSlot_books k n
    { sl with tried := insertIn Path.all p sl.tried, candidate := none, attempt := none, timer := none }
  unfold giveUp
  simp only
  split
  · exact choose_books k1 n
  · exact choose_books (markPeer_books k1 _ p) n

theorem repeatAttempt_books (n : Nat) (sl : Slot) (p : Path) (a : Nat) : KeepsBooks s (repeatAttempt n sl p a t) := by
  unfold repeatAttempt
  simp only
  split
  · exact k
  · exact queueSlotInquiry_books (setSlot_books k n _) _ _ p

theorem slotInquiryEnds_books (n : Nat) : KeepsBooks s (slotInquiryEnds n t) := by
  unfold slotInquiryEnds
  split
  · exact k
  · split
    · unfold slotAction
      split
      · split
        · exact repeatAttempt_books (addScore_books (advanceTo_books k _) _ 16) n _ _ _
        · exact giveUp_books (addScore_books (advanceTo_books k _) _ 16) n _ _
      · exact addScore_books (advanceTo_books k _) _ 16
    · exact k

theorem probeRoundEnds_books (p : Path) : KeepsBooks s (probeRoundEnds p t) := by
  unfold probeRoundEnds
  split
  · exact k
  · exact beginRound_books (closeRound_books (advanceTo_books k _) p) p

theorem settleEnds_books (p : Path) : KeepsBooks s (settleEnds p t) := by
  unfold settleEnds
  split
  · exact k
  · simp only
    split
    · exact cueAll_books (raisePath_books (updPath_books (advanceTo_books k _) p _) p _) none p
    · exact updPath_books (advanceTo_books k _) p _

theorem lineQualified_books (p : Path) (b : Bool) : KeepsBooks s (lineQualified p b t) := by
  have k1 := raisePath_books k p .line
  unfold lineQualified
  simp only
  split
  · split
    · exact lineUp_books k1 p
    · exact k1
  · split
    · exact lineDown_books k1 p
    · exact k1

theorem lineSampled_books (p : Path) (b : Bool) : KeepsBooks s (lineSampled p b t) := by
  unfold lineSampled
  simp only
  split
  · exact updPath_books (advanceTo_books k _) p _
  · split
    · exact updPath_books (advanceTo_books k _) p _
    · exact lineQualified_books (updPath_books (advanceTo_books k _) p _) p b

theorem alarmQualified_books (p : Path) (b : Bool) : KeepsBooks s (alarmQualified p b t) := by
  have k1 := raisePath_books k p .alarm
  unfold alarmQualified
  simp only
  split
  · exact handCondition_books k1 _ _ p
  · exact releaseEvent_books k1 p

theorem alarmSampled_books (p : Path) (b : Bool) : KeepsBooks s (alarmSampled p b t) := by
  unfold alarmSampled
  simp only
  split
  · exact updPath_books (advanceTo_books k _) p _
  · split
    · exact updPath_books (advanceTo_books k _) p _
    · exact alarmQualified_books (updPath_books (advanceTo_books k _) p _) p b

end

/-! ## Commands and steps -/

theorem event_books {f : State → State} {s : State} (hf : KeepsBooks s (f s)) : KeepsBooks s (event f s) := by
  unfold event
  split
  · exact .refl s
  · exact afterEvent_books hf

/-- Every command keeps the books: power-on starts them, and the others run one of the operations above. -/
theorem exec_books {c : Instr} {s t : State} (h : exec c s = .next t) : KeepsBooks s t := by
  have k := KeepsBooks.refl s
  cases c <;> cases h
  case powerOn => exact books_of_start s rfl rfl rfl
  case resetAssert => exact books_of_start s rfl rfl rfl
  case replyCompletion => exact replyDone_books k
  case deliverCompletion => exact deliverDone_books k
  case noticeCompletion => exact noticeDone_books k
  case frameCompletion p => exact frameLeft_books k p
  case octetArrival o => exact octetArrived_books k o
  case frameCheckFailure p l => exact event_books (receiveOctets_books k p l)
  case lineSample p b => exact event_books (lineSampled_books k p b)
  case alarmSample p b => exact event_books (alarmSampled_books k p b)
  case settleExpiry p => exact event_books (settleEnds_books k p)
  case probeRound p => exact event_books (probeRoundEnds_books k p)
  case ackTimerExpiry h => exact event_books (ackTimerEnds_books k h)
  case inquiryTimerExpiry h => exact event_books (inquiryTimerEnds_books k h)
  case waitPauseExpiry h => exact event_books (waitPauseEnds_books k h)
  case openTimerExpiry h => exact event_books (openTimerEnds_books k h)
  case closeTimerExpiry h => exact event_books (closeTimerEnds_books k h)
  case holdExpiry h => exact event_books (holdEnds_books k h)
  case parkExpiry h => exact event_books (parkEnds_books k h)
  case holdOffExpiry n => exact event_books (holdOffEnds_books k n)
  case slotInquiryExpiry n => exact event_books (slotInquiryEnds_books k n)
  case dataReceived | ackReceived | waitReceived | inquiryReceived | answerReceived | openReceived | openReplyReceived |
      closeReceived | closeReplyReceived | abandonReceived | probeReceived | echoReceived =>
    exact event_books (receive_books k _ _ _)
  all_goals exact hostRecord_books k _

theorem step_books {s t : State} (h : step s = .next t) : KeepsBooks s t := by
  unfold step at h
  split at h
  · cases h
    unfold idle
    split
    · exact .refl s
    · exact afterEvent_books (books_of_same (.refl s) rfl rfl rfl)
  · rename_i c rest _
    exact (books_of_same (u := { s with pending := rest }) (.refl s) rfl rfl rfl).trans (exec_books h)

/-- Settles O6: every step keeps the books. -/
theorem everyStepKeepsTheCellsInBalance : Obligations.EveryStepKeepsTheCellsInBalance :=
  ⟨fun _ _ hs h => (step_books h).1 hs, fun _ _ ht hb h => (step_books h).2 ⟨ht, hb⟩⟩

end Sys2Proof.Machine
end

section
/-! PROOFS. SEND and CLEAR RETURNED on a ready link. -/

namespace Sys2Proof.Machine

/-! ## SEND -/

/-- A SEND whose length field does not number its payload is malformed (R158). -/
theorem decodeSend_mismatch {tag h n len : Nat} {payload : List Byte} (hl : WellFormed.fits 16 len = true)
    (hne : payload.length ≠ len) : decodeSend tag (sendBody h n len payload) = .malformed tag sendCode := by
  have h3 := numberOf_octetsOf (n := 2) (v := len) (by simpa using fits_iff.1 hl)
  unfold decodeSend sendBody
  rw [if_neg (by simp; omega)]
  simp only [octetsOf, List.cons_append, List.nil_append, List.drop_succ_cons, List.drop_zero, List.take_succ_cons,
    List.take_zero] at h3 ⊢
  rw [h3, if_neg hne]

/-- The kind codes of a message (Table 2-2). -/
theorem kindOfCode_eq (n : Nat) :
    kindOfCode n = if n = 1 then some .ordinary else if n = 2 then some .singleShot else none := by
  match n with
  | 0 | 1 | 2 => rfl
  | n + 3 => simp [kindOfCode]

theorem inRange_iff {lo hi v : Nat} : inRange lo hi v = true ↔ lo ≤ v ∧ v ≤ hi := by simp [inRange]

theorem seqOk_iff {q : Nat} : seqOk q = true ↔ 1 ≤ q ∧ q ≤ Config.maxSeq := by simp [seqOk]

/-- A kind code or a length outside its range is BAD-VALUE, whichever of the two it is (R30). -/
theorem ownSend_badValue {h n : Nat} {payload : List Byte} {s : State} {c : Conv} (hr : s.recordOf h = some c)
    (hst : ¬ (c.state = .lapsed ∨ c.closeStage ≠ .opened))
    (hv : payload.length < 1 ∨ 512 < payload.length ∨ (n ≠ 1 ∧ n ≠ 2)) :
    ownSend h n payload s = refuse s .badValue := by
  have hst' : (decide (c.state = .lapsed) || decide (c.closeStage ≠ .opened)) = false := by simpa using hst
  unfold ownSend
  simp only [hr, hst', Bool.false_eq_true, if_false, kindOfCode_eq]
  by_cases hn : n ≠ 1 ∧ n ≠ 2
  · simp [hn.1, hn.2]
  · have hlen : inRange 1 Config.maxPayload payload.length = false := by
      rw [← Bool.not_eq_true, inRange_iff, Config.maxPayload]
      omega
    split <;> simp [hlen]

/-- Past its state, kind and length a SEND needs a sequence, room in the journal and a free cell, in this order (R30). -/
theorem ownSend_valid {h n : Nat} {payload : List Byte} {s : State} {c : Conv} (hr : s.recordOf h = some c)
    (hst : ¬ (c.state = .lapsed ∨ c.closeStage ≠ .opened))
    (hv : ¬ (payload.length < 1 ∨ 512 < payload.length ∨ (n ≠ 1 ∧ n ≠ 2))) :
    (c.nextSeq = none → ownSend h n payload s = refuse s .exhausted) ∧
    ∀ q, c.nextSeq = some q →
      (c.cap ≤ c.journal.length → ownSend h n payload s = refuse s .limit) ∧
      (¬ c.cap ≤ c.journal.length →
        (s.rts.free = [] → ownSend h n payload s = refuse s .full) ∧
        ∀ m l, s.rts.free = m :: l → ownSend h n payload s =
          acceptSend h c q (if n = 1 then .ordinary else .singleShot) payload m
            { s with rts := { cells := KMap.set s.rts.cells m payload, free := l } }) := by
  have hst' : (decide (c.state = .lapsed) || decide (c.closeStage ≠ .opened)) = false := by simpa using hst
  have hk : kindOfCode n = some (if n = 1 then .ordinary else .singleShot) := by
    rw [kindOfCode_eq]
    split
    · rfl
    · rw [if_pos (by omega)]
  have hlen : inRange 1 Config.maxPayload payload.length = true := by
    rw [inRange_iff, Config.maxPayload]
    omega
  unfold ownSend
  simp only [hr, hst', hk, hlen, Bool.false_eq_true, Bool.not_true, if_false]
  refine ⟨fun hq => by simp only [hq], fun q hq => ⟨fun hcap => ?_, fun hcap => ⟨fun hfree => ?_, fun m l hfree => ?_⟩⟩⟩
  · simp only [hq, hcap, if_true]
  · simp only [hq, hcap, if_false, issueCell, hfree]
  · simp only [hq, hcap, if_false, issueCell, hfree]

/-- Settles O13: a body that decodes is decided by `ownSend`, whose checks are taken in their order. -/
theorem sendIsCheckedAndAccepted : Obligations.SendIsCheckedAndAccepted := by
  intro tag h kind len payload s hwf hs
  simp only [Instr.wellFormed, Bool.and_eq_true, decide_eq_true_eq] at hwf
  obtain ⟨⟨⟨⟨-, hh⟩, hk⟩, hl⟩, hp⟩ := hwf
  split
  · rename_i hne
    unfold RepliesWith
    rw [show exec (.send tag h kind len payload) s = .next (hostRecord (.send tag (sendBody h kind len payload)) s) from rfl,
      hostRecord_ready _ hs, decodeEntry, decodeSend_mismatch hl hne]
    rfl
  rename_i hlen
  obtain rfl : payload.length = len := not_not.1 hlen
  have hreply : ∀ {t r l}, ownSend h kind payload s.hunting = ⟨t, r, l⟩ →
      RepliesWith (.send tag h kind payload.length payload) s tag 255 r l t := by
    intro t r l ha
    unfold RepliesWith
    rw [show exec (.send tag h kind payload.length payload) s =
      .next (hostRecord (.send tag (sendBody h kind payload.length payload)) s) from rfl,
      hostRecord_send tag h kind payload hh hk (by omega) hs, ha]
    rfl
  split
  · rename_i hrec
    refine hreply ?_
    have hrec' : s.hunting.recordOf h = none := hrec
    simp only [ownSend, hrec']
    rfl
  rename_i c hrec
  have hrec' : s.hunting.recordOf h = some c := hrec
  split
  · rename_i hst
    refine hreply ?_
    simp only [ownSend, hrec']
    rw [if_pos (by simpa using hst)]
    rfl
  rename_i hst
  split
  · rename_i hv
    exact hreply (ownSend_badValue hrec' hst hv)
  rename_i hv
  obtain ⟨hexhausted, hnext⟩ := ownSend_valid hrec' hst hv
  split
  · rename_i hq
    exact hreply (hexhausted hq)
  rename_i q hq
  obtain ⟨hlimit, hroom⟩ := hnext q hq
  split
  · rename_i hcap
    exact hreply (hlimit hcap)
  rename_i hcap
  obtain ⟨hfull, haccept⟩ := hroom hcap
  split
  · rename_i hfree
    exact hreply (hfull hfree)
  · rename_i m l hfree
    exact hreply (haccept m l hfree)

/-! ## CLEAR RETURNED -/

/-- Settles O20: the checks of `ownClearReturned` in their order. -/
theorem clearReturnedRemovesTheRecord : Obligations.ClearReturnedRemovesTheRecord := by
  intro tag h q s hwf hs
  simp only [Instr.wellFormed, Bool.and_eq_true] at hwf
  obtain ⟨⟨-, hh⟩, hq⟩ := hwf
  have hreply : ∀ {t r l}, ownClearReturned h q s.hunting = ⟨t, r, l⟩ →
      RepliesWith (.clearReturned tag h q) s tag 7 r l t := fun ha =>
    repliesWith_of_own (r := .clearReturned h q) rfl (by rw [Request.fits, hh, hq]; rfl) hs ha
  split
  · rename_i hrec
    have hrec' : s.hunting.recordOf h = none := hrec
    exact hreply (by simp only [ownClearReturned, hrec']; rfl)
  rename_i c hrec
  have hrec' : s.hunting.recordOf h = some c := hrec
  split
  · rename_i hzero
    exact hreply (by simp only [ownClearReturned, hrec', hzero]; rfl)
  rename_i hzero
  have hok : seqOk q = true := by
    have := fits_iff.1 hq
    rw [seqOk_iff, Config.maxSeq]
    omega
  split
  · rename_i hfind
    have hfind' : c.journal.find? (JRec.returnedAs q) = none := hfind
    exact hreply (by simp only [ownClearReturned, hrec', hok, hfind']; rfl)
  · rename_i r hfind
    have hfind' : c.journal.find? (JRec.returnedAs q) = some r := hfind
    exact hreply (by simp only [ownClearReturned, hrec', hok, hfind']; rfl)

end Sys2Proof.Machine
end

section
/-! PROOFS. Settling, voiding and the answers to inquiries: what each does to the journal of its record, and that all else but
the notices and the store stays. -/

namespace Sys2Proof.Machine

/-! ## What stays beside a record -/

/-- State `t` differs from `s` in the record of `h`, the store and the notice unit alone. -/
structure BesideRecord (h : Nat) (s t : State) : Prop where
  other : ∀ j, j ≠ h → t.conv j = s.conv j
  paths : t.paths = s.paths
  dlq : t.dlq = s.dlq
  prt : t.prt = s.prt
  she : t.she = s.she
  stc : t.stc = s.stc
  hlu : t.hlu = s.hlu

section
variable {h : Nat} {s t : State} {c : Conv}

theorem BesideRecord.refl (h : Nat) (s : State) : BesideRecord h s s := ⟨fun _ _ => rfl, rfl, rfl, rfl, rfl, rfl, rfl⟩

theorem BesideRecord.withConv (k : BesideRecord h s t) (c : Conv) : BesideRecord h s (t.withConv h c) :=
  ⟨fun j hj => (State.conv_withConv_other t c hj).trans (k.other j hj), k.paths, k.dlq, k.prt, k.she, k.stc, k.hlu⟩

theorem BesideRecord.raised (k : BesideRecord h s t) (r : Reason) : BesideRecord h s (raiseConv h r t) :=
  ⟨k.other, k.paths, k.dlq, k.prt, k.she, k.stc, k.hlu⟩

theorem BesideRecord.returned (k : BesideRecord h s t) (l : List Nat) : BesideRecord h s (returnCells l t) :=
  ⟨k.other, k.paths, k.dlq, k.prt, k.she, k.stc, k.hlu⟩

/-! ## Settling -/

/-- The record after the records up to `d`, but the excepted one, left its journal (R36 items 1 and 2). -/
def Conv.settledTo (c : Conv) (d : Nat) (x : Option Nat) : Conv :=
  { c with journal := c.journal.filter fun r => !r.covered d x, settled := d }

/-- The cells that return with them (R27). -/
def Conv.coveredCells (c : Conv) (d : Nat) (x : Option Nat) : List Nat :=
  (c.journal.filter fun r => r.covered d x).map JRec.cell

theorem covered_iff (d : Nat) (x : Option Nat) (r : JRec) :
    r.covered d x = true ↔ (r.status = .sent ∨ r.status = .waiting) ∧ r.seq ≤ d ∧ x ≠ some r.seq := by
  simp [JRec.covered, JRec.isSent, JRec.isWaiting, and_assoc]

theorem makeReturned_eq (v : Nat) (l : List JRec) :
    makeReturned v l = l.map fun r => if r.status = .sent ∧ r.seq = v then { r with status := .returned } else r := by
  simp [makeReturned, JRec.isSent]

theorem goBack_eq (l : List JRec) :
    goBack l = l.map fun r => if r.status = .sent ∧ r.kind = .ordinary then { r with status := .waiting } else r := by
  simp [goBack, JRec.isSent]

theorem settleJournal_eq (hc : s.conv h = some c) (d : Nat) (x : Option Nat) :
    settleJournal h d x s = returnCells (c.coveredCells d x) (s.withConv h (c.settledTo d x)) := by
  unfold settleJournal
  rw [hc]
  rfl

/-- The cells return to the free list in the order of the journal (R27, log entry 34). -/
theorem settleJournal_free (hc : s.conv h = some c) (d : Nat) (x : Option Nat) :
    (settleJournal h d x s).rts.free = s.rts.free ++ c.coveredCells d x := by
  rw [settleJournal_eq hc]
  rfl

theorem settleJournal_conv (hc : s.conv h = some c) (d : Nat) (x : Option Nat) :
    (settleJournal h d x s).conv h = some (c.settledTo d x) := by
  rw [settleJournal_eq hc]
  exact State.conv_withConv_same s h _

theorem settleJournal_beside (hc : s.conv h = some c) (d : Nat) (x : Option Nat) :
    BesideRecord h s (settleJournal h d x s) := by
  rw [settleJournal_eq hc]
  exact ((BesideRecord.refl h s).withConv _).returned _

/-- The ack timer after a settle advance (R36 item 4). -/
theorem timerAfterSettle_eq (c : Conv) (x : Nat) :
    c.timerAfterSettle x =
      if hasSent c.journal then (if c.state = .carrying ∧ c.waitPause = none then .ackWait x else c.ackTimer)
      else .stopped := by
  simp [Conv.timerAfterSettle]

/-- A settle advance before the credit and the checks (R36 items 1 to 5). -/
def settledState (h d : Nat) (c : Conv) (s : State) : State :=
  raiseConv h .settled ((settleJournal h d none s).withConv h
    { c.settledTo d none with
      retryCount := 0, ackTimer := (c.settledTo d none).timerAfterSettle (s.after c.ackInterval) })

theorem settledState_conv (h d : Nat) (c : Conv) (s : State) :
    (settledState h d c s).conv h = some { c with
      journal := c.journal.filter fun r => !r.covered d none
      settled := d
      retryCount := 0
      ackTimer :=
        if hasSent (c.journal.filter fun r => !r.covered d none) then
          (if c.state = .carrying ∧ c.waitPause = none then .ackWait (s.stc.time + c.ackInterval * 1000)
           else c.ackTimer)
        else .stopped } := by
  refine (State.conv_withConv_same _ h _).trans ?_
  rw [timerAfterSettle_eq]
  rfl

theorem settledState_beside (hc : s.conv h = some c) (d : Nat) : BesideRecord h s (settledState h d c s) :=
  ((settleJournal_beside hc d none).withConv _).raised _

theorem settledState_free (hc : s.conv h = some c) (d : Nat) :
    (settledState h d c s).rts.free = s.rts.free ++ c.coveredCells d none := settleJournal_free hc d none

theorem settledState_raises (h d : Nat) (c : Conv) (s : State) : .settled ∈ reasonsAt (settledState h d c s).ntu.convs h :=
  (mem_reasonsAt_raiseConv ..).2 (.inl rfl)

/-- A settle advance: the credit, the quiet point and the CLOSE frame follow in this order (R36). -/
theorem settleAdvance_eq (hc : s.conv h = some c) (d : Nat) (credit : Option Path) :
    settleAdvance h d credit s = checkClose h (quietPoint h (settleCredit credit (settledState h d c s))) := by
  unfold settleAdvance
  simp only [updConv_eq (settleJournal_conv hc d none)]
  rfl

/-! ## Checks that find nothing to do -/

/-- A quiet point needs a CARRYING record without a SENT message and with a list staged (R148). -/
theorem quietPoint_idle (hc : s.conv h = some c)
    (hn : c.state ≠ .carrying ∨ hasSent c.journal = true ∨ c.staged = none) : quietPoint h s = s := by
  by_cases hs : c.staged = none
  · exact quietPoint_unstaged hc hs
  · have hf : (c.state = .carrying && !hasSent c.journal) = false := by
      rcases hn with hn | hn | hn
      · simp [hn]
      · simp [hn]
      · exact absurd hn hs
    unfold quietPoint
    rw [hc]
    simp only [hf, Bool.false_eq_true, if_false]

/-- No check follows where the record is not CARRYING or a message stays SENT (R36). -/
theorem checks_idle (hc : s.conv h = some c) (hn : c.state ≠ .carrying ∨ hasSent c.journal = true) :
    checkClose h (quietPoint h s) = s := by
  rw [quietPoint_idle hc (hn.imp_right .inl), checkClose_idle hc (hn.imp_right fun hs => .inr (.inl hs))]

/-- No check follows where no list is staged and no close has begun (R17, R148). -/
theorem checks_unasked (hc : s.conv h = some c) (hs : c.staged = none) (ho : c.closeStage = .opened) :
    checkClose h (quietPoint h s) = s := by
  rw [quietPoint_unstaged hc hs, checkClose_idle hc (.inr (.inl (by simp [ho])))]

/-! ## Voiding -/

/-- The record after its SENT record of a void sequence became RETURNED (R47). -/
def Conv.voidedAt (c : Conv) (v : Nat) : Conv := { c with journal := makeReturned v c.journal, settled := max c.settled v }

theorem voidRecord_eq (hc : s.conv h = some c) (v : Nat) :
    voidRecord h v s = raiseConv h .returned (s.withConv h (c.voidedAt v)) := by
  unfold voidRecord
  rw [updConv_eq hc]
  rfl

theorem voidRecord_conv (hc : s.conv h = some c) (v : Nat) : (voidRecord h v s).conv h = some (c.voidedAt v) := by
  rw [voidRecord_eq hc]
  exact State.conv_withConv_same s h _

/-- The record after the records below an answer's delivered-through settled, if it is above settled-through (R36, R139). -/
def Conv.settledBelow (c : Conv) (d : Nat) (x : Option Nat) : Conv := if c.settled < d then c.settledTo d x else c

theorem settledBelow_journal (c : Conv) (d : Nat) (x : Option Nat) :
    (c.settledBelow d x).journal = if c.settled < d then c.journal.filter fun r => !r.covered d x else c.journal := by
  unfold Conv.settledBelow
  split <;> rfl

theorem settledBelow_settled (c : Conv) (d : Nat) (x : Option Nat) :
    (c.settledBelow d x).settled = if c.settled < d then d else c.settled := by
  unfold Conv.settledBelow
  split <;> rfl

theorem settledBelow_rest (c : Conv) (d : Nat) (x : Option Nat) :
    c.settledBelow d x =
      { c with journal := (c.settledBelow d x).journal, settled := (c.settledBelow d x).settled } := by
  unfold Conv.settledBelow
  split <;> rfl

/-- The state of an inquiry answered VOIDED, before the checks (R45). -/
def inquiryVoidedState (h v d : Nat) (c : Conv) (s : State) : State :=
  raiseConv h .settled ((voidRecord h v (if c.settled < d then settleJournal h d (some v) s else s)).withConv h
    { (c.settledBelow d (some v)).voidedAt v with retryCount := 0, ackTimer := .stopped })

/-- The settle that precedes the voiding of a record. -/
theorem settleBelow_spec (hc : s.conv h = some c) (d : Nat) (x : Option Nat) :
    (if c.settled < d then settleJournal h d x s else s).conv h = some (c.settledBelow d x) ∧
      BesideRecord h s (if c.settled < d then settleJournal h d x s else s) := by
  unfold Conv.settledBelow
  split
  · exact ⟨settleJournal_conv hc d x, settleJournal_beside hc d x⟩
  · exact ⟨hc, .refl h s⟩

theorem inquiryVoided_eq (hc : s.conv h = some c) (v d : Nat) :
    inquiryVoided h v d c s = checkClose h (quietPoint h (inquiryVoidedState h v d c s)) := by
  unfold inquiryVoided
  simp only [updConv_eq (voidRecord_conv (settleBelow_spec hc d (some v)).1 v)]
  rfl

/-- An answer that voids nothing ends the inquiry, and settles if its delivered-through is above settled-through (R45). -/
theorem inquiryKept_eq {w : State} (hc : s.conv h = some c) (d : Nat)
    (hw : w = s.withConv h { c with
      retryCount := 0
      ackTimer := if hasSent c.journal then .ackWait (s.stc.time + c.ackInterval * 1000) else .stopped }) :
    inquiryKept h d c s = if c.settled < d then settleAdvance h d none w else w := by
  unfold inquiryKept
  simp only [updConv_eq hc]
  rw [hw]
  rfl

theorem inquiryVoidedState_spec (hc : s.conv h = some c) (v d : Nat) {t : State} (ht : t = inquiryVoidedState h v d c s) :
    t.conv h = some { c with
      journal := makeReturned v
        (if c.settled < d then c.journal.filter fun r => !r.covered d (some v) else c.journal)
      settled := max (if c.settled < d then d else c.settled) v
      retryCount := 0
      ackTimer := .stopped } ∧
    .returned ∈ reasonsAt t.ntu.convs h ∧ .settled ∈ reasonsAt t.ntu.convs h ∧ BesideRecord h s t := by
  obtain ⟨hconv, hbeside⟩ := settleBelow_spec hc d (some v)
  have hv := voidRecord_eq hconv v
  subst ht
  refine ⟨?_, ?_, (mem_reasonsAt_raiseConv ..).2 (.inl rfl), ?_⟩
  · refine (State.conv_withConv_same _ h _).trans ?_
    rw [← settledBelow_journal, ← settledBelow_settled, settledBelow_rest]
    rfl
  · refine (mem_reasonsAt_raiseConv ..).2 (.inr ?_)
    rw [hv]
    exact (mem_reasonsAt_raiseConv ..).2 (.inl rfl)
  · unfold inquiryVoidedState
    rw [hv]
    exact (((hbeside.withConv _).raised _).withConv _).raised _

end

/-- Settles O39: the advance, the VOIDED answer and the other answers are their states with the checks that follow. -/
theorem settlingAndVoidingChangeTheJournal : Obligations.SettlingAndVoidingChangeTheJournal := by
  refine ⟨?_, ?_, fun d v x r l => ⟨covered_iff d x r, makeReturned_eq v l⟩, ?_, ?_, ?_⟩
  · intro s h d c hc hn
    have hconv := settledState_conv h d c s
    have hidle : settleAdvance h d none s = settledState h d c s :=
      (settleAdvance_eq hc d none).trans (checks_idle hconv hn)
    have hb := settledState_beside hc d
    rw [hidle]
    exact ⟨_, rfl, hconv, hb.other, settledState_free hc d, settledState_raises h d c s, hb.paths, hb.dlq, hb.prt, hb.she,
      hb.stc, hb.hlu⟩
  · intro s h n v x d c hc htimer _ hstaged hopen _
    obtain ⟨hconv, hret, hset, hb⟩ := inquiryVoidedState_spec hc v d rfl
    have hidle : applyInquiryAnswer h c .voided d s = inquiryVoidedState h v d c s := by
      unfold applyInquiryAnswer
      rw [htimer]
      exact (inquiryVoided_eq hc v d).trans (checks_unasked hconv hstaged hopen)
    rw [hidle]
    exact ⟨_, rfl, hconv, hret, hset, hb.other, hb.paths, hb.dlq, hb.stc⟩
  · intro s h d credit c hc
    have hb := settledState_beside hc d
    refine ⟨settledState h d c s, settledState_conv h d c s, hb.other, settledState_free hc d, settledState_raises h d c s,
      hb.paths, hb.dlq, hb.prt, hb.she, hb.stc, hb.hlu, ?_⟩
    rw [settleAdvance_eq hc]
    cases credit <;> rfl
  · intro s h n v x d c hc htimer
    obtain ⟨hconv, hret, hset, hb⟩ := inquiryVoidedState_spec hc v d rfl
    refine ⟨_, hconv, hret, hset, hb.other, hb.paths, hb.dlq, hb.stc, ?_⟩
    unfold applyInquiryAnswer
    rw [htimer]
    exact inquiryVoided_eq hc v d
  · intro s w h n v x d c out hc htimer hout hw
    have hkept : applyInquiryAnswer h c out d s = inquiryKept h d c s := by
      unfold applyInquiryAnswer
      rw [htimer]
      rcases hout with rfl | rfl
      · rfl
      · rfl
    rw [hkept, inquiryKept_eq hc d hw]
    exact ⟨fun hlt => if_pos hlt, fun hle => if_neg (by omega)⟩

end Sys2Proof.Machine
end

section
/-! PROOFS. A matching ANSWER ends a shift: the settle, the voiding, the replay, and the carrying that follows the grant. -/

namespace Sys2Proof.Machine

section
variable {h : Nat} {s : State} {c : Conv}

theorem voidExcept_eq (void : Option Nat) (out : AnswerOutcome) :
    voidExcept void out = if out = .voided then void else none := by
  cases out <;> rfl

/-- Where the settled-through is below an answer's, the records up to that settle and SETTLED is raised (R139 step 1). -/
theorem shiftSettle_eq (hc : s.conv h = some c) (d : Nat) (x : Option Nat) :
    shiftSettle h d x s = if c.settled < d then raiseConv h .settled (settleJournal h d x s) else s := by
  unfold shiftSettle
  rw [hc]

theorem shiftSettle_conv (hc : s.conv h = some c) (d : Nat) (x : Option Nat) :
    (shiftSettle h d x s).conv h = some (c.settledBelow d x) := by
  rw [shiftSettle_eq hc, Conv.settledBelow]
  split
  · exact settleJournal_conv hc d x
  · exact hc

theorem shiftSettle_beside (hc : s.conv h = some c) (d : Nat) (x : Option Nat) :
    BesideRecord h s (shiftSettle h d x s) := by
  rw [shiftSettle_eq hc]
  split
  · exact (settleJournal_beside hc d x).raised _
  · exact .refl h s

theorem shiftSettle_free (hc : s.conv h = some c) (d : Nat) (x : Option Nat) :
    (shiftSettle h d x s).rts.free = s.rts.free ++ if c.settled < d then c.coveredCells d x else [] := by
  rw [shiftSettle_eq hc]
  split
  · exact settleJournal_free hc d x
  · exact (List.append_nil _).symm

theorem shiftSettle_raises (hc : s.conv h = some c) {d : Nat} (hd : c.settled < d) (x : Option Nat) :
    .settled ∈ reasonsAt (shiftSettle h d x s).ntu.convs h := by
  rw [shiftSettle_eq hc, if_pos hd]
  exact (mem_reasonsAt_raiseConv ..).2 (.inl rfl)

/-- The journal holds a SENT record of an answer's void sequence (R139 step 2). -/
def HasVoid (l : List JRec) (x : Option Nat) : Prop := ∃ v, x = some v ∧ ∃ r ∈ l, r.status = .sent ∧ r.seq = v

/-- A VOIDED record that stands SENT becomes RETURNED (R139 step 2). -/
theorem shiftVoid_voids (hc : s.conv h = some c) {void : Option Nat} {out : AnswerOutcome} {v : Nat}
    (hv : voidExcept void out = some v) (hr : ∃ r ∈ c.journal, r.status = .sent ∧ r.seq = v) :
    shiftVoid h void out s = voidRecord h v s := by
  have hany : (c.journal.any fun r => r.isSent && decide (r.seq = v)) = true := by simpa [JRec.isSent] using hr
  cases out <;> cases hv
  unfold shiftVoid
  rw [hc]
  simp only [hany, if_true]

/-- Without one nothing is voided. -/
theorem shiftVoid_idle (hc : s.conv h = some c) {void : Option Nat} {out : AnswerOutcome}
    (hn : ¬ HasVoid c.journal (voidExcept void out)) : shiftVoid h void out s = s := by
  unfold shiftVoid
  rw [hc]
  split
  · rename_i c' v hc'
    cases hc'
    rw [if_neg]
    intro hany
    exact hn ⟨v, rfl, by simpa [JRec.isSent] using hany⟩
  · rfl

theorem settledBelow_max (c : Conv) (d : Nat) (x : Option Nat) : (c.settledBelow d x).settled = max c.settled d := by
  rw [settledBelow_settled]
  split <;> omega

theorem settledBelow_kept (c : Conv) (d : Nat) (x : Option Nat) :
    { c.settledBelow d x with journal := c.journal, settled := c.settled } = c := by
  rw [settledBelow_rest]

/-- What steps 1 and 2 of R139 leave. -/
structure AnsweredShift (h : Nat) (c : Conv) (d : Nat) (x : Option Nat) (s u : State) (b : Conv) : Prop where
  beside : BesideRecord h s u
  conv : u.conv h = some b
  free : u.rts.free = s.rts.free ++ if c.settled < d then c.coveredCells d x else []
  settles : c.settled < d → .settled ∈ reasonsAt u.ntu.convs h
  rest : { b with journal := c.journal, settled := c.settled } = c
  voids : ∀ v, x = some v → (∃ r ∈ (c.settledBelow d x).journal, r.status = .sent ∧ r.seq = v) →
    b.journal = makeReturned v (c.settledBelow d x).journal ∧ b.settled = max (max c.settled d) v ∧
      .returned ∈ reasonsAt u.ntu.convs h
  keeps : ¬ HasVoid (c.settledBelow d x).journal x → b.journal = (c.settledBelow d x).journal ∧ b.settled = max c.settled d

theorem answeredShift (hc : s.conv h = some c) (d : Nat) (void : Option Nat) (out : AnswerOutcome) :
    ∃ b, AnsweredShift h c d (voidExcept void out) s
      (shiftVoid h void out (shiftSettle h d (voidExcept void out) s)) b := by
  obtain ⟨x, hx⟩ : ∃ x, x = voidExcept void out := ⟨_, rfl⟩
  have h1 := shiftSettle_conv hc d x
  have hb := shiftSettle_beside hc d x
  have hfree := shiftSettle_free hc d x
  by_cases hv : HasVoid (c.settledBelow d x).journal x
  · obtain ⟨v, hxv, hr⟩ := hv
    refine ⟨(c.settledBelow d x).voidedAt v, ?_⟩
    rw [← hx, shiftVoid_voids h1 (hx ▸ hxv) hr, voidRecord_eq h1]
    refine ⟨(hb.withConv _).raised _, State.conv_withConv_same .., hfree, fun hd => ?_, settledBelow_kept c d x,
      fun w hxw _ => ?_, fun hn => absurd ⟨v, hxv, hr⟩ hn⟩
    · exact (mem_reasonsAt_raiseConv ..).2 (.inr (shiftSettle_raises hc hd x))
    · obtain rfl : v = w := Option.some.inj (hxv.symm.trans hxw)
      refine ⟨rfl, ?_, (mem_reasonsAt_raiseConv ..).2 (.inl rfl)⟩
      rw [Conv.voidedAt, settledBelow_max]
  · refine ⟨c.settledBelow d x, ?_⟩
    rw [← hx, shiftVoid_idle h1 (hx ▸ hv)]
    exact ⟨hb, h1, hfree, fun hd => shiftSettle_raises hc hd x, settledBelow_kept c d x,
      fun v hxv hr => absurd ⟨v, hxv, hr⟩ hv, fun _ => ⟨rfl, settledBelow_max c d x⟩⟩

/-- The ack timer starts while a record stays SENT (R141). -/
theorem startCarrying_eq (hc : s.conv h = some c) :
    startCarrying h s =
      if hasSent c.journal then s.withConv h { c with ackTimer := .ackWait (s.stc.time + c.ackInterval * 1000) } else s := by
  unfold startCarrying
  rw [hc]
  rfl

/-- It touches that timer alone. -/
theorem startCarrying_conv (hc : s.conv h = some c) :
    ∃ timer, (startCarrying h s).conv h = some { c with ackTimer := timer } := by
  rw [startCarrying_eq hc]
  split
  · exact ⟨_, State.conv_withConv_same ..⟩
  · exact ⟨c.ackTimer, hc⟩

theorem startCarrying_ntu (hc : s.conv h = some c) : (startCarrying h s).ntu = s.ntu := by
  rw [startCarrying_eq hc]
  split <;> rfl

/-- A matching ANSWER, step by step (R139, R141): from the state that steps 1 and 2 leave, the record carries, the slot is
granted on, SHIFTED is raised, and the timer and the checks follow. -/
theorem applyShiftAnswer_eq {b : Conv} {void : Option Nat} {out : AnswerOutcome} {d n : Nat} {sl : Slot} {p : Path}
    (hv : sl.void = void) {u : State} (hu : u = shiftVoid h void out (shiftSettle h d (voidExcept void out) s))
    (hb : u.conv h = some b) :
    applyShiftAnswer h n sl p out d s =
      checkClose h (quietPoint h (startCarrying h
        (raiseConv h .shifted (grantAll (freeSlot n (u.withConv h (b.carried p))))))) := by
  subst hv
  unfold applyShiftAnswer
  simp only [← hu, updConv_eq hb]
  rfl

/-- What a grant leaves of a record that does not wait in the queue (R132). -/
theorem grantAll_freeSlot_conv {n : Nat} (hq : ∀ e ∈ s.she.queue, e.handle ≠ h) :
    (grantAll (freeSlot n s)).conv h = s.conv h := grantAll_conv_other (s := freeSlot n s) hq

end

/-- Settles O42: the steps of `applyShiftAnswer_eq`, where without a void request, a staged list and a close the checks find
nothing to do. -/
theorem aShiftAnswerCarriesTheConversation : Obligations.AShiftAnswerCarriesTheConversation := by
  refine ⟨?_, goBack_eq, ?_⟩
  · intro s h n d sl p out c hc hstaged hopen hqueue hvoid
    obtain ⟨b, hA⟩ := answeredShift hc d none out
    have hx : voidExcept none out = none := by cases out <;> rfl
    rw [hx] at hA
    obtain ⟨hjournal, hsettled⟩ := hA.keeps (fun ⟨v, hv, _⟩ => by cases hv)
    rw [settledBelow_journal] at hjournal
    have hrest : ∀ {α : Type} (f : Conv → α), f { b with journal := c.journal, settled := c.settled } = f c :=
      fun f => congrArg f hA.rest
    obtain ⟨u, hu⟩ : ∃ u, u = shiftVoid h none out (shiftSettle h d none s) := ⟨_, rfl⟩
    rw [← hu] at hA
    obtain ⟨g, hg⟩ : ∃ g, g = raiseConv h .shifted (grantAll (freeSlot n (u.withConv h (b.carried p)))) := ⟨_, rfl⟩
    have hgc : g.conv h = some (b.carried p) := by
      rw [hg]
      refine (grantAll_freeSlot_conv ?_).trans (State.conv_withConv_same u h _)
      rw [show (u.withConv h (b.carried p)).she = s.she from hA.beside.she]
      exact hqueue
    have hgr : .shifted ∈ reasonsAt g.ntu.convs h := by
      rw [hg]
      exact (mem_reasonsAt_raiseConv ..).2 (.inl rfl)
    obtain ⟨timer, hst⟩ := startCarrying_conv hgc
    have happ : applyShiftAnswer h n sl p out d s = startCarrying h g := by
      rw [applyShiftAnswer_eq hvoid (hu.trans (by rw [hx])) hA.conv, ← hg]
      exact checks_unasked hst ((hrest Conv.staged).trans hstaged) ((hrest Conv.closeStage).trans hopen)
    refine ⟨_, rfl, ?_⟩
    rw [happ, startCarrying_ntu hgc]
    exact ⟨⟨_, hst, rfl, rfl, rfl, rfl, congrArg (fun m => min 65535 (m + 1)) (hrest Conv.shiftCount), hsettled,
      hrest Conv.prefs, hrest Conv.sendShift, hrest Conv.received, hrest Conv.delivered, congrArg goBack hjournal⟩, hgr⟩
  · intro s h n d sl p out c x kept hc hx hkept
    obtain ⟨b, hA⟩ := answeredShift hc d sl.void out
    obtain ⟨u, hu⟩ : ∃ u, u = shiftVoid h sl.void out (shiftSettle h d (voidExcept sl.void out) s) := ⟨_, rfl⟩
    have hx' : voidExcept sl.void out = x := (voidExcept_eq ..).trans hx.symm
    have hkept' : (c.settledBelow d x).journal = kept := (settledBelow_journal ..).trans hkept.symm
    rw [← hu, hx'] at hA
    have hw := hA.beside.withConv (b.carried p)
    refine ⟨u.withConv h (b.carried p), b.carried p, State.conv_withConv_same .., hw.other, hw.she, hw.paths, hw.dlq, hw.prt,
      hw.stc, hw.hlu, hA.free, hA.settles, ?_, fun v hv hr => ?_, fun hn => ?_, fun g hg y hy => ?_⟩
    · have hrest := congrArg (fun a : Conv => { a with
        active := some p, state := .carrying, retryCount := 0, forced := none,
        shiftCount := min 65535 (a.shiftCount + 1) }) hA.rest
      exact hrest
    · obtain ⟨hj, hs, hr⟩ := hA.voids v hv (by rwa [hkept'])
      rw [hkept'] at hj
      exact ⟨congrArg goBack hj, hs, hr⟩
    · obtain ⟨hj, hs⟩ := hA.keeps (by
        rintro ⟨v, hv, r, hr, hsent, hseq⟩
        exact hn v hv r (hkept' ▸ hr) hseq hsent)
      rw [hkept'] at hj
      exact ⟨congrArg goBack hj, hs⟩
    · rw [applyShiftAnswer_eq rfl hu hA.conv, ← hg, startCarrying_eq hy]

end Sys2Proof.Machine
end

section
/-! PROOFS. The transmitter: what a conversation offers, whose turn it is, and what a free transmitter begins. -/

namespace Sys2Proof.Machine

/-! ## The transmittable record (R32) -/

theorem isWaiting_iff (r : JRec) : r.isWaiting = true ↔ r.status = .waiting := by simp [JRec.isWaiting]
theorem isSent_iff (r : JRec) : r.isSent = true ↔ r.status = .sent := by simp [JRec.isSent]

/-- The first member that meets a test is found. -/
theorem find?_first {α : Type} {f : α → Bool} {pre post : List α} {x : α} (hx : f x = true) (hpre : ∀ y ∈ pre, f y ≠ true) :
    (pre ++ x :: post).find? f = some x :=
  List.find?_eq_some_iff_append.2 ⟨hx, pre, post, rfl, fun y hy => by simpa using hpre y hy⟩

/-- During a WAIT pause nothing is transmittable (R40). -/
theorem transmittable_paused {c : Conv} (hw : c.waitPause ≠ none) : c.transmittable = none := by
  unfold Conv.transmittable
  rw [if_pos (Option.isSome_iff_ne_none.2 hw)]

theorem transmittable_none {c : Conv} (hn : ∀ x ∈ c.journal, x.status ≠ .waiting) : c.transmittable = none := by
  have hf : c.journal.find? JRec.isWaiting = none :=
    List.find?_eq_none.2 fun x hx h => hn x hx ((isWaiting_iff x).1 h)
  unfold Conv.transmittable
  rw [hf]
  split <;> rfl

/-- Without a pause the first WAITING record is transmittable, as far as the SENT ones allow its kind (R32). -/
theorem transmittable_first {c : Conv} {x : JRec} (hw : c.waitPause = none)
    (hf : c.journal.find? JRec.isWaiting = some x) :
    (x.kind = .ordinary → c.transmittable = if (sentSingle c.journal).isSome then none else some x) ∧
      (x.kind = .singleShot → c.transmittable = if hasSent c.journal then none else some x) := by
  unfold Conv.transmittable
  simp only [hw, hf, Option.isSome_none, Bool.false_eq_true, if_false]
  constructor
  · intro hk
    rw [hk]
  · intro hk
    rw [hk]

/-! ## The turn of DATA (R87) -/

theorem mem_rotated_of_offer {s : State} {p : Path} {h : Nat} (ho : s.offer p h ≠ none) :
    h ∈ rotated (s.path p).rotation s.handles := by
  obtain ⟨⟨c, x⟩, hcx⟩ := Option.ne_none_iff_exists'.1 ho
  exact (mem_rotated ..).2 ((mem_handles s h).2 ⟨c, (offer_eq_some.1 hcx).1⟩)

theorem dataTurn_none {s : State} {p : Path} : s.dataTurn p = none ↔ ∀ h, s.offer p h = none := by
  unfold State.dataTurn
  rw [List.find?_eq_none]
  constructor
  · intro hn h
    by_contra ho
    exact hn h (mem_rotated_of_offer ho) (Option.isSome_iff_ne_none.2 ho)
  · intro hn h _ ho
    rw [hn h] at ho
    cases ho

/-- The turn goes to a conversation that offers a record, and before it in the rotation none does. -/
theorem dataTurn_first {s : State} {p : Path} {h : Nat} (ht : s.dataTurn p = some h) :
    s.offer p h ≠ none ∧ (TablesCanonical s → ∀ j, j ≠ h → s.offer p j ≠ none →
      (s.path p).rotation < h ∧ j ≤ (s.path p).rotation ∨
        ((s.path p).rotation < h ↔ (s.path p).rotation < j) ∧ h < j) := by
  obtain ⟨ho, pre, post, hl, hpre⟩ := List.find?_eq_some_iff_append.1 ht
  refine ⟨Option.isSome_iff_ne_none.1 ho, fun hcanon j hj hoj => ?_⟩
  have hpair := rotated_pairwise (s.path p).rotation (of_decide_eq_true hcanon.1)
  have hmem := mem_rotated_of_offer hoj
  rw [show KMap.keys s.convs = s.handles from rfl, hl] at hpair
  rw [hl, List.mem_append, List.mem_cons] at hmem
  rcases hmem with hmem | rfl | hmem
  · have := hpre j hmem
    rw [Option.isSome_iff_ne_none.2 hoj] at this
    cases this
  · exact absurd rfl hj
  · exact (List.pairwise_cons.1 (List.pairwise_append.1 hpair).2.1).1 j hmem

/-! ## Frames begun -/

/-- An acknowledgement's delivered-through is read when it is begun, every other body when it was queued (R63, R153). -/
theorem beginBody_queued {s : State} {f : QFrame} (hf : ∀ d, f.body ≠ .ack d ∧ f.body ≠ .wait d) :
    s.beginBody f = f.body := by
  unfold State.beginBody
  cases hb : f.body with
  | ack d => exact absurd hb (hf d).1
  | wait d => exact absurd hb (hf d).2
  | _ => rfl

theorem beginBody_ack {s : State} {f : QFrame} {h : Nat} {c : Conv} (ho : f.owner = some h) (hc : s.conv h = some c)
    (d : Nat) :
    (f.body = .ack d → s.beginBody f = .ack c.delivered) ∧ (f.body = .wait d → s.beginBody f = .wait c.delivered) := by
  have hd : ((f.owner.bind s.conv).map Conv.delivered).getD 0 = c.delivered := by simp [ho, hc]
  unfold State.beginBody
  rw [hd]
  exact ⟨fun hb => by rw [hb], fun hb => by rw [hb]⟩

/-! ## A free transmitter (R85) -/

section
variable {s : State} {p : Path}

/-- A busy transmitter, or an unconfigured station's, begins nothing. -/
theorem beginPort_idle (hn : (s.path p).tx ≠ none ∨ s.stc.nodeId = 0 ∨ s.stc.frameType = 0) : beginPort p s = s := by
  have hb : ((s.path p).tx.isSome || !s.configured) = true := by
    rcases hn with hn | hn
    · rw [Option.isSome_iff_ne_none.2 hn]
      rfl
    · have hc : s.configured = false := by
        rw [← Bool.not_eq_true, configured_iff]
        exact not_not.2 hn
      rw [hc, Bool.not_false, Bool.or_true]
  unfold beginPort
  rw [if_pos hb]

section
variable (hfree : (s.path p).tx = none) (hconf : s.configured = true)
include hfree hconf

theorem beginPort_free :
    beginPort p s =
      match (s.path p).nextQueued with
      | some (cls, f) => s.withPath p { (s.path p).popClass cls with tx := some (s.begun p f) }
      | none =>
          if (s.path p).state.permits 5 then
            match s.dataTurn p with
            | some h => beginData p h s
            | none => s
          else s := by
  unfold beginPort
  simp only [hfree, hconf, Option.isSome_none, Bool.not_true, Bool.or_self, Bool.false_eq_true, if_false]
  rfl

theorem beginPort_queued {cls : Nat} {f : QFrame} (hq : (s.path p).nextQueued = some (cls, f)) :
    beginPort p s = s.withPath p { (s.path p).popClass cls with tx := some (s.begun p f) } := by
  rw [beginPort_free hfree hconf, hq]

theorem beginPort_barred (hq : (s.path p).nextQueued = none) (hp : (s.path p).state.permits 5 = false) :
    beginPort p s = s := by
  rw [beginPort_free hfree hconf, hq]
  simp only [hp, Bool.false_eq_true, if_false]

theorem beginPort_silent (hq : (s.path p).nextQueued = none) (ht : s.dataTurn p = none) : beginPort p s = s := by
  rw [beginPort_free hfree hconf, hq]
  simp only [ht, ite_self]

theorem beginPort_turn (hq : (s.path p).nextQueued = none) (hp : (s.path p).state.permits 5 = true) {h : Nat}
    (ht : s.dataTurn p = some h) : beginPort p s = beginData p h s := by
  rw [beginPort_free hfree hconf, hq]
  simp only [hp, ht, if_true]

end

/-- The record after its message was begun (R33). -/
def Conv.sending (c : Conv) (q expiry : Nat) : Conv :=
  { c with journal := makeSent q c.sendShift c.journal, ackTimer := c.ackTimer.started expiry }

/-- The DATA frame of an offered record (R33, R152). -/
theorem beginData_eq {h : Nat} {c : Conv} {x : JRec} {e : Peer} {a : LinkAddr} (ho : s.offer p h = some (c, x))
    (he : s.peer c.peer = some e) (ha : (e.links.get p).link = some a) :
    beginData p h s =
      (s.withConv h (c.sending x.seq (s.after c.ackInterval))).withPath p { s.path p with
        tx := some (s.begun p
          (answerTo e a (some h) c.peerHandle c.sendShift (.data x.seq x.kind (s.payloadOf x)) (some h)))
        rotation := h } := by
  unfold beginData
  rw [ho]
  simp only [frameTo_present he ha]
  rfl

/-- What a transmitter's look can do: nothing, or the head of a class begun, or the DATA of an offered record. -/
theorem beginPort_cases (p : Path) (s : State) :
    beginPort p s = s ∨ (s.path p).tx = none ∧
      ((∃ cls f, beginPort p s = s.withPath p { (s.path p).popClass cls with tx := some (s.begun p f) }) ∨
        ∃ h c x f, s.offer p h = some (c, x) ∧ f.srcHandle = some h ∧
          beginPort p s = (s.withConv h (c.sending x.seq (s.after c.ackInterval))).withPath p { s.path p with
            tx := some f, rotation := h }) := by
  by_cases hb : (s.path p).tx = none ∧ s.configured = true
  · obtain ⟨hfree, hconf⟩ := hb
    rw [beginPort_free hfree hconf]
    split
    · exact .inr ⟨hfree, .inl ⟨_, _, rfl⟩⟩
    · split
      · split
        · rename_i h _
          unfold beginData
          split
          · exact .inl rfl
          · rename_i c x ho
            split
            · exact .inl rfl
            · rename_i f hf
              have hsrc : f.srcHandle = some h := by
                unfold State.frameTo at hf
                split at hf
                · cases hf
                · obtain ⟨a, -, rfl⟩ := Option.map_eq_some_iff.1 hf
                  rfl
              exact .inr ⟨hfree, .inr ⟨h, c, x, s.begun p f, ho, hsrc, rfl⟩⟩
        · exact .inl rfl
      · exact .inl rfl
  · refine .inl (beginPort_idle ?_)
    by_cases hfree : (s.path p).tx = none
    · have hconf : ¬ s.configured = true := fun h => hb ⟨hfree, h⟩
      rw [configured_iff, not_not] at hconf
      exact .inr hconf
    · exact .inl hfree

end

/-! ## The class arbiter (Table 4-2) -/

section
variable {r : PathRec} {f : QFrame} {l : List QFrame}

theorem permits_answers {st : PathState} (h1 : st ≠ .down) (h2 : st ≠ .drained) :
    st.permits 1 = true ∧ st.permits 3 = true := by
  revert h1 h2
  cases st <;> decide

theorem permits_barred {st : PathState} (h : st = .down ∨ st = .drained) (cls : Nat) : st.permits cls = false := by
  unfold PathState.permits
  rcases h with rfl | rfl <;> split <;> rfl

theorem permits_service (st : PathState) :
    st.permits 2 = st.inService ∧ st.permits 4 = st.inService ∧ st.permits 5 = st.inService := ⟨rfl, rfl, rfl⟩

/-- A test that does not look at the value. -/
theorem filter_const {α : Type} (o : Option α) (b : Bool) : (o.filter fun _ => b) = if b then o else none := by
  cases o <;> cases b <;> rfl

theorem nextQueued_class1 (hp : r.state.permits 1 = true) (h1 : r.class1 = f :: l) : r.nextQueued = some (1, f) := by
  simp [PathRec.nextQueued, filter_const, h1, hp]

theorem nextQueued_class2 (hs : r.state.inService = true) (h1 : r.class1 = []) (h2 : r.class2 = f :: l) :
    r.nextQueued = some (2, f) := by
  simp [PathRec.nextQueued, filter_const, h1, h2, permits_service, hs]

theorem nextQueued_class3 (hp : r.state.permits 3 = true) (h1 : r.class1 = [])
    (h2 : r.state.inService = true → r.class2 = []) (h3 : r.class3 = f :: l) : r.nextQueued = some (3, f) := by
  have h2' : (if r.state.inService then r.class2.head? else none) = none := by
    split
    · rename_i hs
      rw [h2 hs]
      rfl
    · rfl
  simp [PathRec.nextQueued, filter_const, h1, h2', h3, hp, permits_service]

theorem nextQueued_class4 (hs : r.state.inService = true) (h1 : r.class1 = []) (h2 : r.class2 = []) (h3 : r.class3 = [])
    (h4 : r.class4 = f :: l) : r.nextQueued = some (4, f) := by
  simp [PathRec.nextQueued, filter_const, h1, h2, h3, h4, permits_service, hs]

/-- In DOWN and DRAINED no class is permitted. -/
theorem nextQueued_barred (h : r.state = .down ∨ r.state = .drained) : r.nextQueued = none := by
  simp [PathRec.nextQueued, permits_barred h]

theorem nextQueued_outside (hs : r.state.inService = false) (h1 : r.class1 = []) (h3 : r.class3 = []) :
    r.nextQueued = none := by
  simp [PathRec.nextQueued, h1, h3, permits_service, hs]

theorem nextQueued_empty (h : r.queued = []) : r.nextQueued = none := by
  simp only [PathRec.queued, List.append_eq_nil_iff] at h
  obtain ⟨⟨⟨h1, h2⟩, h3⟩, h4⟩ := h
  simp [PathRec.nextQueued, h1, h2, h3, h4]

end

/-! ## Completions (R85, R88, R186) -/

theorem frameLeft_cases (s : State) (p : Path) :
    ((s.path p).tx = none → frameLeft p s = s) ∧
    ((s.path p).tx ≠ none →
      ((s.path p).flush = true →
        frameLeft p s = chooseOut (s.withPath p { (s.path p).emptied with tx := none, flush := false })) ∧
      ((s.path p).flush = false → frameLeft p s = afterEvent (s.withPath p { s.path p with tx := none }))) := by
  unfold frameLeft
  refine ⟨fun hn => if_pos (by rw [hn]; rfl), fun hn => ?_⟩
  have hbusy : ¬ (s.path p).tx.isNone = true := by simpa using hn
  exact ⟨fun hf => (if_neg hbusy).trans (if_pos hf), fun hf => (if_neg hbusy).trans (if_neg (by simp [hf]))⟩

/-- Settles O51: a look of the transmitter is taken class by class, and the turn of DATA from the rotation. -/
theorem theTransmitterFreesAndBeginsFrames : Obligations.TheTransmitterFreesAndBeginsFrames := by
  refine ⟨fun c => ⟨transmittable_paused, transmittable_none, ?_⟩, fun s p h c x => offer_eq_some,
    fun s p => ⟨dataTurn_none, fun h => dataTurn_first⟩, ?_, ?_, ?_⟩
  · intro pre x post hw hj hx hpre
    have hf : c.journal.find? JRec.isWaiting = some x := by
      rw [hj]
      exact find?_first ((isWaiting_iff x).2 hx) fun y hy h => hpre y hy ((isWaiting_iff y).1 h)
    obtain ⟨hordinary, hsingle⟩ := transmittable_first hw hf
    refine ⟨fun hk => ⟨fun hs => ?_, fun hs => ?_⟩, fun hk => ⟨fun hs => ?_, fun hs => ?_⟩⟩
    · rw [hordinary hk, if_pos ((sentSingle_isSome _).2 hs)]
    · rw [hordinary hk, if_neg fun h => ?_]
      obtain ⟨y, hy, h1, h2⟩ := (sentSingle_isSome _).1 h
      exact hs y hy h1 h2
    · rw [hsingle hk, if_pos ((hasSent_iff _).2 hs)]
    · rw [hsingle hk, if_neg fun h => ?_]
      obtain ⟨y, hy, h1⟩ := (hasSent_iff _).1 h
      exact hs y hy h1
  · exact fun s p f => ⟨rfl, beginBody_queued, fun h c d ho hc => beginBody_ack ho hc d⟩
  · intro s p
    obtain ⟨hnone, hsome⟩ := frameLeft_cases s p
    refine ⟨fun f hf hfl => ?_, fun f hf hfl => ?_, fun hn => ?_⟩
    · exact congrArg Host.Outcome.next ((hsome (by simp [hf])).2 hfl)
    · exact congrArg Host.Outcome.next ((hsome (by simp [hf])).1 hfl)
    · exact congrArg Host.Outcome.next (hnone hn)
  · rintro s p r rfl
    refine ⟨beginPort_idle, fun hfree h1 h2 => ?_⟩
    have hconf : s.configured = true := (configured_iff s).2 (by simp [h1, h2])
    refine ⟨fun hst => ?_, fun hd hd' => ?_⟩
    · exact beginPort_barred hfree hconf (nextQueued_barred hst) (permits_barred hst 5)
    obtain ⟨hp1, hp3⟩ := permits_answers hd hd'
    refine ⟨fun f l c1 => ?_, fun f l c1 hs c2 => ?_, fun f l c1 c2 c3 => ?_, fun f l c1 hs c2 c3 c4 => ?_,
      fun c1 c3 hs => ?_, fun hq hs => ⟨fun ht => ?_, fun h c x e a ht ho he ha => ?_⟩⟩
    · rw [beginPort_queued hfree hconf (nextQueued_class1 hp1 c1), PathRec.popClass, c1]
      rfl
    · rw [beginPort_queued hfree hconf (nextQueued_class2 hs c1 c2), PathRec.popClass, c2]
      rfl
    · rw [beginPort_queued hfree hconf (nextQueued_class3 hp3 c1 c2 c3), PathRec.popClass, c3]
      rfl
    · rw [beginPort_queued hfree hconf (nextQueued_class4 hs c1 c2 c3 c4)]
      show s.withPath p { s.path p with class4 := (s.path p).class4.tail, tx := some (s.begun p f) } = _
      rw [c4]
      rfl
    · exact beginPort_barred hfree hconf (nextQueued_outside hs c1 c3) hs
    · exact beginPort_silent hfree hconf (nextQueued_empty hq) ht
    · rw [beginPort_turn hfree hconf (nextQueued_empty hq) hs ht, beginData_eq ho he ha]
      have htimer : c.ackTimer.started (s.after c.ackInterval) =
          if c.ackTimer = .stopped then .ackWait (s.stc.time + c.ackInterval * 1000) else c.ackTimer := by
        cases c.ackTimer <;> rfl
      rw [Conv.sending, htimer]
      rfl

end Sys2Proof.Machine
end

section
/-! PROOFS. The expiries of the ack timer in its modes, and of a WAIT pause. -/

namespace Sys2Proof.Machine

/-! ## The oldest SENT record -/

theorem oldestSent_none (l : List JRec) : oldestSent l = none ↔ ∀ x ∈ l, x.status ≠ .sent := by
  unfold oldestSent
  rw [List.find?_eq_none]
  simp only [isSent_iff, ne_eq]

theorem oldestSent_first {pre post : List JRec} {x : JRec} (hx : x.status = .sent) (hpre : ∀ y ∈ pre, y.status ≠ .sent) :
    oldestSent (pre ++ x :: post) = some x :=
  find?_first ((isSent_iff x).2 hx) fun y hy h => hpre y hy ((isSent_iff y).1 h)

/-! ## The INQUIRY of a same-path inquiry (R42, R43, R86) -/

section
variable {t w : State} {h v : Nat} {c b : Conv} {p : Path}

theorem queueInquiry_unlinked (hn : t.linkOn c.peer p = none) : queueInquiry h c p v t = t := by
  unfold queueInquiry
  rw [frameTo_unlinked hn]
  rfl

theorem queueInquiry_linked {e : Peer} {a : LinkAddr} {f : QFrame} (he : t.peer c.peer = some e)
    (ha : (e.links.get p).link = some a)
    (hf : f = answerTo e a (some h) c.peerHandle c.sendShift (.inquiry (some v)) (some h)) :
    queueInquiry h c p v t =
      t.withPath p { t.path p with
        class2 :=
          if f ∈ (t.path p).class2 ∨ 64 ≤ (t.path p).class2.length then (t.path p).class2
          else (t.path p).class2 ++ [f] } := by
  unfold queueInquiry
  rw [frameTo_present he ha, ← hf]
  exact queue2_repeated p t (by rw [hf]; rfl) (by rw [hf]; rfl)

/-! ## The ack timer in ACK-WAIT (R38, R39) -/

/-- The record after the count of a round (R38). -/
def Conv.counted (c : Conv) : Conv := { c with retryCount := c.retryCount + 1 }

theorem ackTimerEnds_eq {s : State} {x : Nat} (hc : s.conv h = some c) (hx : c.ackTimer = .ackWait x) :
    ackTimerEnds h s =
      if c.retryCount < c.retryLimit then roundAction h (countRound h c (s.atTime x))
      else shiftCause true h (s.atTime x) := by
  unfold ackTimerEnds
  rw [hc]
  simp only [hx]
  rfl

/-- Off its path a conversation's round does no more (log entry 15). -/
theorem roundAction_idle (hb : t.conv h = some b) (hp : b.active = none) : roundAction h t = t := by
  unfold roundAction
  rw [hb]
  simp only [hp]

theorem roundAction_ordinary {r : JRec} (hb : t.conv h = some b) (hp : b.active = some p)
    (hr : oldestSent b.journal = some r) (hk : r.kind = .ordinary) :
    roundAction h t = quietPoint h (t.withConv h { b with journal := goBack b.journal, ackTimer := .stopped }) := by
  have hgo : roundAction h t = goBackRound h b t := by
    unfold roundAction
    rw [hb]
    simp only [hp, hr, hk]
  exact hgo.trans rfl

theorem roundAction_single {r : JRec} (hb : t.conv h = some b) (hp : b.active = some p)
    (hr : oldestSent b.journal = some r) (hk : r.kind = .singleShot) :
    roundAction h t =
      queueInquiry h b p r.seq
        (t.withConv h { b with ackTimer := .inquiry 1 r.seq (t.stc.time + t.stc.inquiryTimeout * 1000) }) := by
  have hbegin : roundAction h t = beginInquiry h b p r.seq t := by
    unfold roundAction
    rw [hb]
    simp only [hp, hr, hk]
  exact hbegin.trans rfl

/-! ## The inquiry timer (R43) -/

theorem inquiryTimerEnds_eq {s : State} {n x : Nat} (hc : s.conv h = some c) (hx : c.ackTimer = .inquiry n v x)
    (hp : c.active = some p) : inquiryTimerEnds h s = inquiryAction h n v x (addScore p 16 (s.atTime x)) := by
  unfold inquiryTimerEnds
  rw [hc]
  simp only [hx, scoreActive, hp]
  rfl

theorem inquiryAction_idle {n x : Nat} (hb : w.conv h = some b) (hp : b.active = none) : inquiryAction h n v x w = w := by
  unfold inquiryAction
  rw [hb]
  simp only [hp]

/-- The inquiry is repeated, or after its third attempt a shift cause. -/
theorem inquiryAction_running {n x : Nat} (hc : w.conv h = some c) (hp : c.active = some p)
    (hx : c.ackTimer = .inquiry n v x) :
    inquiryAction h n v x w =
      if n < 3 then
        queueInquiry h c p v
          (w.withConv h { c with ackTimer := .inquiry (n + 1) v (w.stc.time + w.stc.inquiryTimeout * 1000) })
      else shiftCause true h w := by
  unfold inquiryAction
  split
  · rename_i hn
    cases hc.symm.trans hn
  · rename_i b hb
    cases hc.symm.trans hb
    split
    · rename_i hn
      cases hp.symm.trans hn
    · rename_i q hq
      cases hp.symm.trans hq
      rw [if_pos hx]
      rfl

/-! ## The WAIT pause (R41) -/

theorem waitPauseEnds_eq {s : State} {x : Nat} (hc : s.conv h = some c) (hx : c.waitPause = some x) :
    waitPauseEnds h s = quietPoint h ((s.atTime x).withConv h (c.resumed ((s.atTime x).after c.ackInterval))) := by
  unfold waitPauseEnds
  rw [hc]
  simp only [hx]
  rfl

end

/-- A score leaves station control as it stands, with the expiry's time. -/
theorem addScore_atTime_stc (p : Path) (n x : Nat) (s : State) :
    (addScore p n (s.atTime x)).stc = { s.stc with time := max s.stc.time x } :=
  State.outer_stc (addScore_outer p n (s.atTime x))

/-- Settles O52: each expiry is its own operation on the state at the expiry's time, with the score of the round. -/
theorem ackInquiryAndPauseExpiries : Obligations.AckInquiryAndPauseExpiries := by
  refine ⟨fun l => ⟨oldestSent_none l, fun pre x post hl hx hpre => hl ▸ oldestSent_first hx hpre⟩,
    fun t h v c p => ⟨queueInquiry_unlinked, fun e a f he ha hf => queueInquiry_linked he ha hf⟩,
    fun s h c hs hc => ⟨fun x hx => ?_, fun n v x p w hx hp hw => ?_, fun x hx => ?_⟩⟩
  · have hev : ∀ {t}, ackTimerEnds h s = t → Takes (.ackTimerExpiry h) s t := fun ht =>
      takes_of_event (f := ackTimerEnds h) rfl hs ht
    refine ⟨fun hle => hev ?_, fun hlt p w hp hw => ?_⟩
    · rw [ackTimerEnds_eq hc hx, if_neg (by omega)]
    have hround : ackTimerEnds h s = roundAction h (countRound h c (s.atTime x)) :=
      (ackTimerEnds_eq hc hx).trans (if_pos hlt)
    have hcount : ∀ {b}, w.conv h = some b → countRound h c (s.atTime x) = w.withConv h b.counted := countRound_eq hp hw
    have hstc : w.stc = { s.stc with time := max s.stc.time x } := hw ▸ addScore_atTime_stc p 16 x s
    refine ⟨fun hwc => ⟨fun r hr hk => hev ?_, fun r hr hk => hev ?_⟩, fun b hb hact => hev ?_⟩
    · rw [hround, hcount hwc, roundAction_ordinary (b := c.counted) (State.conv_withConv_same ..) hp hr hk,
        State.withConv_withConv]
      rfl
    · rw [hround, hcount hwc, roundAction_single (b := c.counted) (State.conv_withConv_same ..) hp hr hk,
        State.withConv_withConv]
      show queueInquiry h c p r.seq (w.withConv h { c with
        retryCount := c.retryCount + 1,
        ackTimer := .inquiry 1 r.seq (w.stc.time + w.stc.inquiryTimeout * 1000) }) = _
      rw [hstc]
    · rw [hround, hcount hb, roundAction_idle (b := b.counted) (State.conv_withConv_same ..) hact]
      rfl
  · have hev : ∀ {t}, inquiryAction h n v x w = t → Takes (.inquiryTimerExpiry h) s t := fun ht =>
      takes_of_event (f := inquiryTimerEnds h) rfl hs ((inquiryTimerEnds_eq hc hx hp).trans (hw ▸ ht))
    have hstc : w.stc = { s.stc with time := max s.stc.time x } := hw ▸ addScore_atTime_stc p 16 x s
    refine ⟨fun hwc hn => hev ?_, fun hwc hn => hev ?_, fun b hb hact => hev (inquiryAction_idle hb hact)⟩
    · rw [inquiryAction_running hwc hp hx, if_pos hn, hstc]
    · rw [inquiryAction_running hwc hp hx, if_neg (by omega)]
  · exact takes_of_event (f := waitPauseEnds h) rfl hs (waitPauseEnds_eq hc hx)

end Sys2Proof.Machine
end

section
/-! PROOFS. The end of a taking: what the transmitters and the outbound link begin, and what stays. -/

namespace Sys2Proof.Machine

/-! ## The outbound link (R169) -/

section
variable {s : State}

theorem chooseOut_busy (ho : s.hlu.out ≠ none) : chooseOut s = s := by
  unfold chooseOut
  split
  · rfl
  · rename_i hn
    exact absurd hn ho

theorem chooseOut_head {r : Reply} {l : List Reply} (ho : s.hlu.out = none) (hr : s.hlu.replies = r :: l) :
    chooseOut s = { s with hlu := { s.hlu with out := some (.reply r), replies := l } } := by
  unfold chooseOut
  rw [ho, hr]
  rfl

/-- Without a reply the turn is decided by what waits and by the last shared turn. -/
theorem chooseOut_unreplied (ho : s.hlu.out = none) (hr : s.hlu.replies = []) :
    (s.dlq.entries = [] → s.ntu.firstReady = none → chooseOut s = s) ∧
    (∀ e l, s.dlq.entries = e :: l → s.ntu.firstReady = none →
      chooseOut s = { s with hlu := { s.hlu with out := some (.deliver e) }, dlq := { s.dlq with tx := .head } }) ∧
    (∀ x, s.dlq.entries = [] → s.ntu.firstReady = some x →
      chooseOut s = { (buildNotice x s).2 with hlu := { s.hlu with out := some (.notice (buildNotice x s).1) } }) ∧
    ∀ e l x, s.dlq.entries = e :: l → s.ntu.firstReady = some x →
      (s.hlu.lastShared = .deliver →
        chooseOut s =
          { (buildNotice x s).2 with
            hlu := { s.hlu with out := some (.notice (buildNotice x s).1), lastShared := .notice } }) ∧
      (s.hlu.lastShared = .notice →
        chooseOut s =
          { s with
            hlu := { s.hlu with out := some (.deliver e), lastShared := .deliver }
            dlq := { s.dlq with tx := .head } }) := by
  refine ⟨fun he hx => ?_, fun e l he hx => ?_, fun x he hx => ?_, fun e l x he hx => ⟨fun hl => ?_, fun hl => ?_⟩⟩
  · simp only [chooseOut, ho, hr, he, hx]
  · have hb : chooseOut s = beginDeliver e s := by simp only [chooseOut, ho, hr, he, hx]
    exact hb.trans rfl
  · have hb : chooseOut s = beginNotice x s := by simp only [chooseOut, ho, hr, he, hx]
    cases x <;> exact hb.trans rfl
  · have hb : chooseOut s = beginNotice x (setShared .notice s) := by simp only [chooseOut, ho, hr, he, hx, hl]
    cases x <;> exact hb.trans rfl
  · have hb : chooseOut s = beginDeliver e (setShared .deliver s) := by simp only [chooseOut, ho, hr, he, hx, hl]
    exact hb.trans rfl

/-- A waiting reply waits on, or is the record begun. -/
theorem chooseOut_keeps_reply {r : Reply} (hr : r ∈ s.hlu.replies) :
    r ∈ (chooseOut s).hlu.replies ∨ (chooseOut s).hlu.out = some (.reply r) := by
  by_cases ho : s.hlu.out = none
  · cases hl : s.hlu.replies with
    | nil =>
      rw [hl] at hr
      cases hr
    | cons q l =>
      rw [chooseOut_head ho hl]
      rw [hl] at hr
      rcases List.mem_cons.1 hr with rfl | hr
      · exact .inr rfl
      · exact .inl hr
  · rw [chooseOut_busy ho]
    exact .inl hr

end

/-! ## Records whose messages are begun (R33) -/

/-- Record `d` is `c` with messages begun at station time `now`: a changed one is SENT under the send shift, and the ack
timer starts if it was stopped. -/
structure Conv.Sends (now : Nat) (c d : Conv) : Prop where
  rest : { d with journal := c.journal, ackTimer := c.ackTimer } = c
  idle : c.state ≠ .carrying → d = c
  length : d.journal.length = c.journal.length
  statuses : ∀ (i : Nat) (r q : JRec), c.journal[i]? = some r → d.journal[i]? = some q →
    q = r ∨ q = { r with status := .sent, sentShift := some c.sendShift }
  timer : d.ackTimer = c.ackTimer ∨
    c.ackTimer = .stopped ∧ d.ackTimer = .ackWait (now + c.ackInterval * 1000)

theorem Conv.Sends.refl (now : Nat) (c : Conv) : c.Sends now c :=
  ⟨rfl, fun _ => rfl, rfl, fun _ _ _ hr hq => .inl (Option.some.inj (hq.symm.trans hr)), .inl rfl⟩

theorem Conv.Sends.trans {now : Nat} {c d e : Conv} (h : c.Sends now d) (k : d.Sends now e) : c.Sends now e := by
  have hfield : ∀ {α : Type} (f : Conv → α), f { d with journal := c.journal, ackTimer := c.ackTimer } = f c :=
    fun f => congrArg f h.rest
  have hshift : d.sendShift = c.sendShift := hfield Conv.sendShift
  have hack : d.ackInterval = c.ackInterval := hfield Conv.ackInterval
  refine ⟨?_, fun hc => ?_, k.length.trans h.length, fun i r q hr hq => ?_, ?_⟩
  · exact (congrArg (fun x : Conv => { x with journal := c.journal, ackTimer := c.ackTimer }) k.rest).trans h.rest
  · rw [k.idle (by rwa [h.idle hc]), h.idle hc]
  · have hi : i < d.journal.length := h.length ▸ (List.getElem?_eq_some_iff.1 hr).1
    obtain ⟨m, hm⟩ : ∃ m, d.journal[i]? = some m := ⟨_, List.getElem?_eq_getElem hi⟩
    rcases h.statuses i r m hr hm with rfl | rfl
    · exact hshift ▸ k.statuses i m q hm hq
    · rcases k.statuses i _ q hm hq with rfl | rfl
      · exact .inr rfl
      · exact .inr (by rw [hshift])
  · rcases h.timer with hd | ⟨hc, hd⟩
    · rw [← hd, ← hack]
      exact k.timer
    · rcases k.timer with he | ⟨hs, -⟩
      · exact .inr ⟨hc, he.trans hd⟩
      · rw [hd] at hs
        cases hs

/-- One message begun. -/
theorem Conv.sends_sending {c : Conv} (hc : c.state = .carrying) (q now : Nat) :
    c.Sends now (c.sending q (now + c.ackInterval * 1000)) := by
  refine ⟨rfl, fun hn => absurd hc hn, makeSent_length .., fun i r x hr hx => ?_, ?_⟩
  · rw [show (c.sending q (now + c.ackInterval * 1000)).journal = makeSent q c.sendShift c.journal from rfl, makeSent,
      List.getElem?_map, hr, Option.map_some] at hx
    rw [← Option.some.inj hx]
    split
    · exact .inr rfl
    · exact .inl rfl
  · unfold Conv.sending AckTimer.started
    cases c.ackTimer with
    | stopped => exact .inr ⟨rfl, rfl⟩
    | ackWait x => exact .inl rfl
    | inquiry a v x => exact .inl rfl

/-! ## Paths whose frames are begun (R85) -/

/-- Path record `t` is `r` with at most a frame begun: a busy one stays, and a rotation point moves to the handle of the
frame. -/
structure PathRec.Begins (r t : PathRec) : Prop where
  busy : r.tx ≠ none → t = r
  rest : { t.emptied with tx := r.tx, rotation := r.rotation } = r.emptied
  turn : t.rotation ≠ r.rotation → ∃ f, t.tx = some f ∧ f.srcHandle = some t.rotation

theorem PathRec.Begins.refl (r : PathRec) : r.Begins r := ⟨fun _ => rfl, rfl, fun h => absurd rfl h⟩

theorem PathRec.Begins.trans {r t u : PathRec} (h : r.Begins t) (k : t.Begins u) : r.Begins u := by
  refine ⟨fun hr => ?_, ?_, fun hne => ?_⟩
  · have ht := h.busy hr
    rw [k.busy (by rwa [ht]), ht]
  · exact (congrArg (fun x : PathRec => { x with tx := r.tx, rotation := r.rotation }) k.rest).trans h.rest
  · by_cases hu : u.rotation = t.rotation
    · obtain ⟨f, hf, hsrc⟩ := h.turn (hu ▸ hne)
      rw [k.busy (by simp [hf])]
      exact ⟨f, hf, hsrc⟩
    · exact k.turn hu

theorem PathRec.begins_popClass {r : PathRec} (hr : r.tx = none) (cls : Nat) (f : TxFrame) :
    r.Begins { r.popClass cls with tx := some f } := by
  refine ⟨fun hn => absurd hr hn, ?_, fun hn => absurd ?_ hn⟩
  · unfold PathRec.popClass
    split <;> rfl
  · unfold PathRec.popClass
    split <;> rfl

/-! ## The pass over the transmitters -/

/-- State `t` is `s` with frames begun on free transmitters. -/
structure OnlySends (s t : State) : Prop where
  stc : t.stc = s.stc
  paths : ∀ p, (s.path p).Begins (t.path p)
  vacant : ∀ h, s.conv h = none → t.conv h = none
  convs : ∀ h c, s.conv h = some c → ∃ d, t.conv h = some d ∧ c.Sends s.stc.time d

theorem OnlySends.trans {s t u : State} (h : OnlySends s t) (k : OnlySends t u) : OnlySends s u := by
  refine ⟨k.stc.trans h.stc, fun p => (h.paths p).trans (k.paths p), fun j hj => k.vacant j (h.vacant j hj),
    fun j c hc => ?_⟩
  obtain ⟨d, hd, hcd⟩ := h.convs j c hc
  obtain ⟨e, he, hde⟩ := k.convs j d hd
  rw [h.stc] at hde
  exact ⟨e, he, hcd.trans hde⟩

theorem OnlySends.refl (s : State) : OnlySends s s :=
  ⟨rfl, fun _ => .refl _, fun _ h => h, fun _ c hc => ⟨c, hc, .refl ..⟩⟩

/-- A path record replaced. -/
theorem OnlySends.withPath {s t : State} {p : Path} {r : PathRec} (h : OnlySends s t)
    (hr : (s.path p).Begins r) : OnlySends s (t.withPath p r) := by
  refine ⟨h.stc, fun q => ?_, h.vacant, h.convs⟩
  rw [State.path_withPath]
  split
  · rename_i hq
    exact hq ▸ hr
  · exact h.paths q

/-- The record of an offered message, begun. -/
theorem OnlySends.sending {s : State} {p : Path} {h : Nat} {c : Conv} {x : JRec} (ho : s.offer p h = some (c, x)) :
    OnlySends s (s.withConv h (c.sending x.seq (s.after c.ackInterval))) := by
  obtain ⟨hc, hst, -, -⟩ := offer_eq_some.1 ho
  refine ⟨rfl, fun _ => .refl _, fun j hj => ?_, fun j d hd => ?_⟩
  · have hne : j ≠ h := fun e => by
      rw [e, hc] at hj
      cases hj
    exact (State.conv_withConv_other s _ hne).trans hj
  · by_cases hj : j = h
    · subst hj
      cases hc.symm.trans hd
      exact ⟨_, State.conv_withConv_same .., Conv.sends_sending hst x.seq s.stc.time⟩
    · exact ⟨d, (State.conv_withConv_other s _ hj).trans hd, .refl ..⟩

theorem beginPort_onlySends (p : Path) (s : State) : OnlySends s (beginPort p s) := by
  rcases beginPort_cases p s with he | ⟨hfree, ⟨cls, f, he⟩ | ⟨h, c, x, f, ho, hsrc, he⟩⟩
  · rw [he]
    exact .refl s
  · rw [he]
    exact (OnlySends.refl s).withPath (PathRec.begins_popClass hfree cls _)
  · rw [he]
    exact (OnlySends.sending ho).withPath
      ⟨fun hn => absurd hfree hn, rfl, fun _ => ⟨f, rfl, hsrc⟩⟩

theorem beginAll_onlySends (s : State) : OnlySends s (beginAll s) :=
  (((beginPort_onlySends .p0 s).trans (beginPort_onlySends .p1 _)).trans (beginPort_onlySends .p2 _)).trans
    (beginPort_onlySends .p3 _)

/-- The outbound arbiter begins no frame. -/
theorem afterEvent_onlySends (s : State) : OnlySends s (afterEvent s) := by
  have h := beginAll_onlySends s
  refine ⟨afterEvent_stc s, fun p => ?_, fun j hj => ?_, fun j c hc => ?_⟩
  · rw [afterEvent, State.path_congr (chooseOut_paths _)]
    exact h.paths p
  · rw [afterEvent, State.conv_congr (chooseOut_convs _)]
    exact h.vacant j hj
  · rw [afterEvent, State.conv_congr (chooseOut_convs _)]
    exact h.convs j c hc

theorem afterEvent_hlu_busy {s : State} (ho : s.hlu.out ≠ none) : (afterEvent s).hlu = s.hlu := by
  rw [afterEvent, chooseOut_busy (by rwa [beginAll_hlu]), beginAll_hlu]

theorem afterEvent_keeps_reply {s : State} {r : Reply} (hr : r ∈ s.hlu.replies) :
    r ∈ (afterEvent s).hlu.replies ∨ (afterEvent s).hlu.out = some (.reply r) :=
  chooseOut_keeps_reply (by rwa [beginAll_hlu])

/-- Settles O8: the transmitters' looks compose, and the outbound arbiter follows them. -/
theorem theEndOfATakingOnlyBeginsSending : Obligations.TheEndOfATakingOnlyBeginsSending := by
  refine ⟨fun s => ?_, fun s => ?_, fun s => ⟨chooseOut_busy, fun ho => ⟨fun r l => chooseOut_head ho, chooseOut_unreplied ho⟩⟩⟩
  · have hS := afterEvent_onlySends s
    refine ⟨afterEvent_stc s, afterEvent_prt s, afterEvent_rts s, afterEvent_she s, afterEvent_dlq_entries s,
      afterEvent_hlu_input s, afterEvent_hlu_restart s, afterEvent_hlu_parser s, afterEvent_hlu_busy,
      fun r hr => afterEvent_keeps_reply hr, fun p => (hS.paths p).busy, fun p => (hS.paths p).rest,
      fun h => ⟨hS.vacant h, fun c hc => ?_⟩⟩
    obtain ⟨d, hd, hcd⟩ := hS.convs h c hc
    exact ⟨d, hd, hcd.rest, hcd.idle⟩
  · have hS := afterEvent_onlySends s
    refine ⟨afterEvent_pending s, afterEvent_inReset s, rfl, fun p => (hS.paths p).turn, fun h c d hc hd => ?_⟩
    obtain ⟨d', hd', hcd⟩ := hS.convs h c hc
    cases hd.symm.trans hd'
    exact ⟨hcd.length, hcd.statuses, hcd.timer⟩

end Sys2Proof.Machine
end

section
/-! PROOFS. The operations over records, paths and peers touch no buffer of the host link and no delivery: each is made of
updates of other blocks, whatever case it takes. One lemma per operation, in the order of the model's files. -/

namespace Sys2Proof.Machine

/-- What `LinkBounded` and `QueueBounded` look at: the input buffer, the reply queue and the delivery queue (Table 9-1, R54). -/
def State.buffers (s : State) : List RecordEnd × List Reply × List DlqEntry := (s.hlu.input, s.hlu.replies, s.dlq.entries)

/-! ## Updates of the other blocks -/

@[simp] theorem setConv_buffers (h : Nat) (c : Conv) (s : State) : (setConv h c s).buffers = s.buffers := rfl
@[simp] theorem updPath_buffers (p : Path) (f : PathRec → PathRec) (s : State) :
    (updPath p f s).buffers = s.buffers := rfl
@[simp] theorem setSlot_buffers (k : Nat) (v : Slot) (s : State) : (setSlot k v s).buffers = s.buffers := rfl
@[simp] theorem freeSlot_buffers (k : Nat) (s : State) : (freeSlot k s).buffers = s.buffers := rfl
@[simp] theorem leaveShift_buffers (h : Nat) (s : State) : (leaveShift h s).buffers = s.buffers := rfl
@[simp] theorem raiseConv_buffers (h : Nat) (r : Reason) (s : State) : (raiseConv h r s).buffers = s.buffers := rfl
@[simp] theorem raisePath_buffers (p : Path) (r : Reason) (s : State) : (raisePath p r s).buffers = s.buffers := rfl
@[simp] theorem raisePeer_buffers (k : Nat) (r : Reason) (s : State) : (raisePeer k r s).buffers = s.buffers := rfl
@[simp] theorem freezeClosing_buffers (h : Nat) (c : Conv) (s : State) :
    (freezeClosing h c s).buffers = s.buffers := rfl
@[simp] theorem eraseConv_buffers (h : Nat) (s : State) : (eraseConv h s).buffers = s.buffers := rfl
@[simp] theorem returnCells_buffers (l : List Nat) (s : State) : (returnCells l s).buffers = s.buffers := rfl
@[simp] theorem withdrawConv_buffers (h : Nat) (s : State) : (withdrawConv h s).buffers = s.buffers := rfl
@[simp] theorem withdrawClass2_buffers (h : Nat) (p : Path) (s : State) :
    (withdrawClass2 h p s).buffers = s.buffers := rfl
@[simp] theorem withdrawInquiry_buffers (h : Nat) (p : Path) (s : State) :
    (withdrawInquiry h p s).buffers = s.buffers := rfl
@[simp] theorem withdrawProbes_buffers (n : Nat) (s : State) : (withdrawProbes n s).buffers = s.buffers := rfl
@[simp] theorem rekindAck_buffers (h : Nat) (w : Bool) (d : Nat) (s : State) :
    (rekindAck h w d s).buffers = s.buffers := rfl
@[simp] theorem advanceTo_buffers (n : Nat) (s : State) : (advanceTo n s).buffers = s.buffers := rfl
@[simp] theorem setRound_buffers (p : Path) (n : Option Nat) (s : State) : (setRound p n s).buffers = s.buffers := rfl
@[simp] theorem setPeer_buffers (k : Nat) (e : Peer) (s : State) : (setPeer k e s).buffers = s.buffers := rfl

@[simp] theorem forEach_buffers {α : Type} (l : List α) (f : α → State → State) (s : State)
    (hf : ∀ a t, (f a t).buffers = t.buffers) : (forEach l f s).buffers = s.buffers :=
  forEach_keeps (fun t => t.buffers = s.buffers) f (fun a t h => (hf a t).trans h) l s rfl

theorem queueOpt_buffers (q : QFrame → State → State) (f : Option QFrame) (s : State)
    (hq : ∀ f t, (q f t).buffers = t.buffers) : (queueOpt q f s).buffers = s.buffers := by
  cases f with
  | none => rfl
  | some f => exact hq f s

@[simp] theorem queueOpt1_buffers (p : Path) (f : Option QFrame) (s : State) :
    (queueOpt (queue1 p) f s).buffers = s.buffers := queueOpt_buffers _ f s fun _ _ => rfl
@[simp] theorem queueOpt2_buffers (p : Path) (f : Option QFrame) (s : State) :
    (queueOpt (queue2 p) f s).buffers = s.buffers := queueOpt_buffers _ f s fun _ _ => rfl
@[simp] theorem queueOpt3_buffers (p : Path) (f : Option QFrame) (s : State) :
    (queueOpt (queue3 p) f s).buffers = s.buffers := queueOpt_buffers _ f s fun _ _ => rfl
@[simp] theorem queueOpt4_buffers (p : Path) (f : Option QFrame) (s : State) :
    (queueOpt (queue4 p) f s).buffers = s.buffers := queueOpt_buffers _ f s fun _ _ => rfl

@[simp] theorem updConv_buffers (h : Nat) (f : Conv → Conv) (s : State) : (updConv h f s).buffers = s.buffers := by
  unfold updConv
  split <;> rfl

@[simp] theorem updPeer_buffers (k : Nat) (f : Peer → Peer) (s : State) : (updPeer k f s).buffers = s.buffers := by
  unfold updPeer
  split <;> rfl

@[simp] theorem updLink_buffers (k : Nat) (p : Path) (f : PeerLink → PeerLink) (s : State) :
    (updLink k p f s).buffers = s.buffers := updPeer_buffers k _ s

/-! ## Shared operations (Machine/Ops.lean) -/

@[simp] theorem joinQueue_buffers (h : Nat) (s : State) : (joinQueue h s).buffers = s.buffers := by
  unfold joinQueue
  split <;> rfl

@[simp] theorem queueSlotInquiry_buffers (sl : Slot) (c : Conv) (p : Path) (s : State) :
    (queueSlotInquiry sl c p s).buffers = s.buffers := queueOpt2_buffers p _ s

@[simp] theorem park_buffers (h : Nat) (s : State) : (park h s).buffers = s.buffers := updConv_buffers h _ s

@[simp] theorem chooseCore_buffers (k : Nat) (s : State) : (chooseCore k s).buffers = s.buffers := by
  unfold chooseCore
  (repeat' split) <;> simp

@[simp] theorem lapseCore_buffers (h : Nat) (why : LapseReason) (s : State) :
    (lapseCore h why s).buffers = s.buffers := by
  unfold lapseCore
  (repeat' split) <;> simp

@[simp] theorem applyStaged_buffers (h : Nat) (c : Conv) (s : State) : (applyStaged h c s).buffers = s.buffers := by
  unfold applyStaged
  split <;> simp

@[simp] theorem grant_buffers (k h : Nat) (s : State) : (grant k h s).buffers = s.buffers := by
  unfold grant
  (repeat' split) <;> simp

@[simp] theorem grants_buffers : ∀ (n : Nat) (s : State), (grants n s).buffers = s.buffers
  | 0, _ => rfl
  | n + 1, s => by
    unfold grants
    split
    · exact (grants_buffers n _).trans (grant_buffers _ _ _)
    · rfl

@[simp] theorem grantAll_buffers (s : State) : (grantAll s).buffers = s.buffers := grants_buffers _ s

@[simp] theorem enterQueue_buffers (h : Nat) (s : State) : (enterQueue h s).buffers = s.buffers :=
  (grantAll_buffers _).trans (joinQueue_buffers h s)

@[simp] theorem choose_buffers (k : Nat) (s : State) : (choose k s).buffers = s.buffers :=
  (grantAll_buffers _).trans (chooseCore_buffers k s)

@[simp] theorem lapse_buffers (h : Nat) (why : LapseReason) (s : State) : (lapse h why s).buffers = s.buffers :=
  (grantAll_buffers _).trans (lapseCore_buffers h why s)

@[simp] theorem shiftCause_buffers (a : Bool) (h : Nat) (s : State) : (shiftCause a h s).buffers = s.buffers := by
  unfold shiftCause
  (repeat' split) <;> simp

@[simp] theorem cue_buffers (h : Nat) (s : State) : (cue h s).buffers = s.buffers := by
  unfold cue
  (repeat' split) <;> simp

@[simp] theorem cueAll_buffers (k : Option Nat) (p : Path) (s : State) : (cueAll k p s).buffers = s.buffers :=
  forEach_buffers _ _ s cue_buffers

@[simp] theorem quietPoint_buffers (h : Nat) (s : State) : (quietPoint h s).buffers = s.buffers := by
  unfold quietPoint
  (repeat' split) <;> simp

@[simp] theorem checkClose_buffers (h : Nat) (s : State) : (checkClose h s).buffers = s.buffers := by
  unfold checkClose
  (repeat' split) <;> simp

@[simp] theorem afterChecks_buffers (h : Nat) (s : State) : (afterChecks h s).buffers = s.buffers :=
  (checkClose_buffers h _).trans (quietPoint_buffers h s)

@[simp] theorem placeAck_buffers (h : Nat) (w : Bool) (own : Option Path) (s : State) :
    (placeAck h w own s).buffers = s.buffers := by
  unfold placeAck
  (repeat' split) <;> simp

@[simp] theorem requestAck_buffers (h : Nat) (w : Bool) (own : Option Path) (s : State) :
    (requestAck h w own s).buffers = s.buffers := by
  unfold requestAck
  (repeat' split) <;> simp

@[simp] theorem replaceAck_buffers (f : QFrame) (s : State) : (replaceAck f s).buffers = s.buffers := by
  unfold replaceAck
  split <;> simp

/-! ## Paths and peers (Machine/Service.lean) -/

@[simp] theorem dropCandidate_buffers (k : Nat) (s : State) : (dropCandidate k s).buffers = s.buffers := by
  unfold dropCandidate
  (repeat' split) <;> simp

@[simp] theorem dropCandidates_buffers (p : Path) (peer : Option Nat) (s : State) :
    (dropCandidates p peer s).buffers = s.buffers :=
  forEach_buffers _ _ s fun k t => by split <;> simp

@[simp] theorem leaveService_buffers (p : Path) (acks : List QFrame) (s : State) :
    (leaveService p acks s).buffers = s.buffers :=
  (forEach_buffers _ _ _ replaceAck_buffers).trans
    ((dropCandidates_buffers p none _).trans (forEach_buffers _ _ s (shiftCause_buffers true)))

@[simp] theorem quenchOne_buffers (p : Path) (why : Cause) (s : State) : (quenchOne p why s).buffers = s.buffers := by
  unfold quenchOne
  split <;> simp

@[simp] theorem enterQuench_buffers : ∀ (n : Nat) (p : Path) (why : Cause) (s : State),
    (enterQuench n p why s).buffers = s.buffers
  | 0, _, _, _ => rfl
  | n + 1, p, why, s => by
    rw [enterQuench_succ, forEach_buffers, quenchOne_buffers]
    intro q t
    split
    · exact enterQuench_buffers n q .companion t
    · rfl

@[simp] theorem quenchPath_buffers (p : Path) (why : Cause) (s : State) : (quenchPath p why s).buffers = s.buffers :=
  enterQuench_buffers 4 p why s

@[simp] theorem handCondition_buffers (src : QuenchSource) (why : Cause) (p : Path) (s : State) :
    (handCondition src why p s).buffers = s.buffers := by
  unfold handCondition
  split <;> simp

@[simp] theorem provingCheck_buffers (p : Path) (s : State) : (provingCheck p s).buffers = s.buffers := by
  unfold provingCheck
  simp only
  (repeat' split) <;> simp

@[simp] theorem applyScore_buffers (p : Path) (n : Nat) (s : State) : (applyScore p n s).buffers = s.buffers := by
  unfold applyScore
  simp only
  (repeat' split) <;> simp

@[simp] theorem addScore_buffers (p : Path) (n : Nat) (s : State) : (addScore p n s).buffers = s.buffers :=
  applyScore_buffers p _ s

@[simp] theorem lowerScore_buffers (p : Path) (s : State) : (lowerScore p s).buffers = s.buffers :=
  applyScore_buffers p _ s

@[simp] theorem queueProbe_buffers (p : Path) (k : Nat) (s : State) : (queueProbe p k s).buffers = s.buffers :=
  queueOpt3_buffers p _ s

@[simp] theorem beginRound_buffers (p : Path) (s : State) : (beginRound p s).buffers = s.buffers :=
  (forEach_buffers _ _ _ (queueProbe_buffers p)).trans (forEach_buffers _ _ s fun k t => updLink_buffers k p _ t)

@[simp] theorem becomeUnknown_buffers (p : Path) (k : Nat) (s : State) : (becomeUnknown p k s).buffers = s.buffers := by
  unfold becomeUnknown
  split <;> simp

@[simp] theorem stopRounds_buffers (p : Path) (s : State) : (stopRounds p s).buffers = s.buffers :=
  forEach_buffers _ _ _ (becomeUnknown_buffers p)

@[simp] theorem testPeerAll_buffers (p : Path) (s : State) : (testPeerAll p s).buffers = s.buffers := by
  unfold testPeerAll
  split <;> simp

@[simp] theorem becomeUnreachable_buffers (k : Nat) (p : Path) (s : State) :
    (becomeUnreachable k p s).buffers = s.buffers := by
  simp [becomeUnreachable]

@[simp] theorem missRound_buffers (p : Path) (k : Nat) (s : State) : (missRound p k s).buffers = s.buffers := by
  unfold missRound
  simp only
  (repeat' split) <;> simp

@[simp] theorem closeRound_buffers (p : Path) (s : State) : (closeRound p s).buffers = s.buffers := by
  unfold closeRound
  simp only
  split <;> simp

@[simp] theorem markPeer_buffers (k : Nat) (p : Path) (s : State) : (markPeer k p s).buffers = s.buffers := by
  unfold markPeer
  split <;> simp

@[simp] theorem revivedPath_buffers (p : Path) (s : State) : (revivedPath p s).buffers = s.buffers := by
  unfold revivedPath
  simp only
  (repeat' split) <;> simp

@[simp] theorem revive_buffers : ∀ (n : Nat) (p : Path) (s : State), (revive n p s).buffers = s.buffers
  | 0, _, _ => rfl
  | n + 1, p, s => by
    have hq : ∀ q t, (if t.autoReady q then revive n q t else t).buffers = State.buffers t := by
      intro q t
      split
      · exact revive_buffers n q t
      · rfl
    unfold revive
    simp only
    (repeat' split) <;> simp [hq]

@[simp] theorem releaseEvent_buffers (p : Path) (s : State) : (releaseEvent p s).buffers = s.buffers := by
  unfold releaseEvent
  split <;> simp

@[simp] theorem leftQuenched_buffers (p : Path) (s : State) : (leftQuenched p s).buffers = s.buffers :=
  forEach_buffers _ _ s releaseEvent_buffers

@[simp] theorem becomeReachable_buffers (k : Nat) (p : Path) (s : State) :
    (becomeReachable k p s).buffers = s.buffers := by
  unfold becomeReachable
  split <;> simp

@[simp] theorem hearPeer_buffers (k : Nat) (p : Path) (s : State) : (hearPeer k p s).buffers = s.buffers := by
  unfold hearPeer
  split <;> simp

@[simp] theorem lineUp_buffers (p : Path) (s : State) : (lineUp p s).buffers = s.buffers :=
  (provingCheck_buffers p _).trans (beginRound_buffers p _)

@[simp] theorem lineDown_buffers (p : Path) (s : State) : (lineDown p s).buffers = s.buffers := by
  unfold lineDown
  simp only
  (repeat' split) <;> simp

@[simp] theorem drainPath_buffers (p : Path) (s : State) : (drainPath p s).buffers = s.buffers := by
  unfold drainPath
  simp only
  (repeat' split) <;> simp

end Sys2Proof.Machine
end

section
/-! PROOFS. Frames other than DATA and the close kinds, timers and samples, and the owners of requests other than CLOSE touch
no buffer either. -/

namespace Sys2Proof.Machine

/-! ## Settling (Machine/Settling.lean) -/

@[simp] theorem settleCredit_buffers (credit : Option Path) (s : State) :
    (settleCredit credit s).buffers = s.buffers := by
  unfold settleCredit
  split <;> simp

@[simp] theorem settleJournal_buffers (h d : Nat) (x : Option Nat) (s : State) :
    (settleJournal h d x s).buffers = s.buffers := by
  unfold settleJournal
  split <;> simp

@[simp] theorem settleAdvance_buffers (h d : Nat) (credit : Option Path) (s : State) :
    (settleAdvance h d credit s).buffers = s.buffers :=
  (afterChecks_buffers h _).trans ((settleCredit_buffers credit _).trans
    ((updConv_buffers h _ _).trans (settleJournal_buffers h d none s)))

@[simp] theorem settleOn_buffers (h d : Nat) (credit : Option Path) (s : State) :
    (settleOn h d credit s).buffers = s.buffers := by
  unfold settleOn
  (repeat' split) <;> simp

@[simp] theorem startPause_buffers (h : Nat) (s : State) : (startPause h s).buffers = s.buffers := by
  unfold startPause
  (repeat' split) <;> simp

@[simp] theorem takeAck_buffers (h d : Nat) (p : Path) (s : State) : (takeAck h d p s).buffers = s.buffers :=
  settleOn_buffers h d (some p) s

@[simp] theorem takeWait_buffers (h d : Nat) (p : Path) (s : State) : (takeWait h d p s).buffers = s.buffers :=
  (startPause_buffers h _).trans (settleOn_buffers h d (some p) s)

@[simp] theorem voidRecord_buffers (h v : Nat) (s : State) : (voidRecord h v s).buffers = s.buffers :=
  updConv_buffers h _ s

@[simp] theorem inquiryVoided_buffers (h v d : Nat) (c : Conv) (s : State) :
    (inquiryVoided h v d c s).buffers = s.buffers := by
  unfold inquiryVoided
  split <;> simp

@[simp] theorem inquiryKept_buffers (h d : Nat) (c : Conv) (s : State) : (inquiryKept h d c s).buffers = s.buffers := by
  unfold inquiryKept
  split <;> simp

@[simp] theorem applyInquiryAnswer_buffers (h : Nat) (c : Conv) (out : AnswerOutcome) (d : Nat) (s : State) :
    (applyInquiryAnswer h c out d s).buffers = s.buffers := by
  unfold applyInquiryAnswer
  split <;> simp

@[simp] theorem shiftSettle_buffers (h d : Nat) (x : Option Nat) (s : State) :
    (shiftSettle h d x s).buffers = s.buffers := by
  unfold shiftSettle
  (repeat' split) <;> simp

@[simp] theorem shiftVoid_buffers (h : Nat) (v : Option Nat) (out : AnswerOutcome) (s : State) :
    (shiftVoid h v out s).buffers = s.buffers := by
  unfold shiftVoid
  (repeat' split) <;> simp

@[simp] theorem startCarrying_buffers (h : Nat) (s : State) : (startCarrying h s).buffers = s.buffers := by
  unfold startCarrying
  (repeat' split) <;> simp

@[simp] theorem applyShiftAnswer_buffers (h k : Nat) (sl : Slot) (p : Path) (out : AnswerOutcome) (d : Nat) (s : State) :
    (applyShiftAnswer h k sl p out d s).buffers = s.buffers :=
  (afterChecks_buffers h _).trans ((startCarrying_buffers h _).trans ((grantAll_buffers _).trans
    ((updConv_buffers h _ _).trans ((shiftVoid_buffers h sl.void out _).trans (shiftSettle_buffers h d _ s)))))

@[simp] theorem applyAnswer_buffers (h : Nat) (c : Conv) (p : Path) (n : Nat) (out : AnswerOutcome) (v : Option Nat)
    (d : Nat) (s : State) :
    (applyAnswer h c p n out v d s).buffers = s.buffers := by
  unfold applyAnswer
  (repeat' split) <;> simp

@[simp] theorem takeAnswer_buffers (h : Nat) (p : Path) (n : Nat) (out : AnswerOutcome) (v : Option Nat)
    (d : Nat) (s : State) :
    (takeAnswer h p n out v d s).buffers = s.buffers := by
  unfold takeAnswer
  (repeat' split) <;> simp

/-! ## Frames (Machine/Inbound.lean) -/

@[simp] theorem answerFrame_buffers (p : Path) (k : Nat) (src dst : Option Nat) (n : Nat) (b : FrameBody)
    (o : Option Nat) (s : State) :
    (answerFrame p k src dst n b o s).buffers = s.buffers := queueOpt1_buffers p _ s

@[simp] theorem displaceOne_buffers (j : Nat) (s : State) : (displaceOne j s).buffers = s.buffers :=
  (lapse_buffers j _ _).trans (updConv_buffers j _ s)

@[simp] theorem displace_buffers (k ph h : Nat) (s : State) : (displace k ph h s).buffers = s.buffers :=
  forEach_buffers _ _ s displaceOne_buffers

@[simp] theorem acceptOpening_buffers (h : Nat) (c : Conv) (ph : Nat) (p : Path) (s : State) :
    (acceptOpening h c ph p s).buffers = s.buffers := by
  unfold acceptOpening
  simp only
  split <;> simp

@[simp] theorem implicitAccept_buffers (h : Nat) (c : Conv) (src : Option Nat) (p : Path) (s : State) :
    (implicitAccept h c src p s).buffers = s.buffers := by
  unfold implicitAccept
  (repeat' split) <;> simp

@[simp] theorem takeOpenReply_buffers (p : Path) (k : Nat) (f : RxFrame) (b : Bool) (s : State) :
    (takeOpenReply p k f b s).buffers = s.buffers := by
  unfold takeOpenReply
  (repeat' split) <;> simp

@[simp] theorem admitConv_buffers (h k : Nat) (e : Peer) (ph : Nat) (p : Path) (s : State) :
    (admitConv h k e ph p s).buffers = s.buffers := by
  unfold admitConv
  simp only
  split <;> simp

@[simp] theorem takeOpen_buffers (p : Path) (k ph : Nat) (s : State) : (takeOpen p k ph s).buffers = s.buffers := by
  unfold takeOpen
  (repeat' split) <;> simp

@[simp] theorem takeInquiry_buffers (h : Nat) (p : Path) (n : Nat) (v : Option Nat) (s : State) :
    (takeInquiry h p n v s).buffers = s.buffers := by
  unfold takeInquiry
  split <;> simp

@[simp] theorem takeAbandon_buffers (h : Nat) (c : Conv) (s : State) : (takeAbandon h c s).buffers = s.buffers := by
  unfold takeAbandon
  split <;> simp

@[simp] theorem takeUnbound_buffers (p : Path) (k : Nat) (f : RxFrame) (s : State) :
    (takeUnbound p k f s).buffers = s.buffers := by
  unfold takeUnbound
  split <;> simp

@[simp] theorem takeWaitFrom_buffers (was : ConvState) (h d : Nat) (p : Path) (s : State) :
    (takeWaitFrom was h d p s).buffers = s.buffers := by
  unfold takeWaitFrom
  split <;> simp

@[simp] theorem hear_buffers (p : Path) (sender : Option Nat) (s : State) : (hear p sender s).buffers = s.buffers := by
  unfold hear
  split <;> simp

@[simp] theorem echo_buffers (p : Path) (sender : Option Nat) (s : State) : (echo p sender s).buffers = s.buffers := by
  unfold echo
  (repeat' split) <;> simp

@[simp] theorem frameCue_buffers (p : Path) (sender : Option Nat) (s : State) :
    (frameCue p sender s).buffers = s.buffers := by
  unfold frameCue
  split <;> simp

@[simp] theorem answerCredit_buffers (p : Path) (f : RxFrame) (s : State) :
    (answerCredit p f s).buffers = s.buffers := by
  unfold answerCredit
  split <;> simp

/-! ## Timers and samples (Machine/Timers.lean) -/

@[simp] theorem queueInquiry_buffers (h : Nat) (c : Conv) (p : Path) (v : Nat) (s : State) :
    (queueInquiry h c p v s).buffers = s.buffers := queueOpt2_buffers p _ s

@[simp] theorem goBackRound_buffers (h : Nat) (c : Conv) (s : State) : (goBackRound h c s).buffers = s.buffers :=
  quietPoint_buffers h _

@[simp] theorem beginInquiry_buffers (h : Nat) (c : Conv) (p : Path) (v : Nat) (s : State) :
    (beginInquiry h c p v s).buffers = s.buffers := queueInquiry_buffers h c p v _

@[simp] theorem roundAction_buffers (h : Nat) (s : State) : (roundAction h s).buffers = s.buffers := by
  unfold roundAction
  (repeat' split) <;> simp

@[simp] theorem scoreActive_buffers (c : Conv) (n : Nat) (s : State) : (scoreActive c n s).buffers = s.buffers := by
  unfold scoreActive
  split <;> simp

@[simp] theorem countRound_buffers (h : Nat) (c : Conv) (s : State) : (countRound h c s).buffers = s.buffers :=
  (updConv_buffers h _ _).trans (scoreActive_buffers c 16 s)

@[simp] theorem ackExpired_buffers (h : Nat) (c : Conv) (s : State) : (ackExpired h c s).buffers = s.buffers := by
  unfold ackExpired
  split <;> simp

@[simp] theorem ackTimerEnds_buffers (h : Nat) (s : State) : (ackTimerEnds h s).buffers = s.buffers := by
  unfold ackTimerEnds
  (repeat' split) <;> simp

@[simp] theorem inquiryAction_buffers (h a v e : Nat) (s : State) : (inquiryAction h a v e s).buffers = s.buffers := by
  unfold inquiryAction
  (repeat' split) <;> simp

@[simp] theorem inquiryTimerEnds_buffers (h : Nat) (s : State) : (inquiryTimerEnds h s).buffers = s.buffers := by
  unfold inquiryTimerEnds
  (repeat' split) <;> simp

@[simp] theorem waitPauseEnds_buffers (h : Nat) (s : State) : (waitPauseEnds h s).buffers = s.buffers := by
  unfold waitPauseEnds
  (repeat' split) <;> simp

@[simp] theorem openAttempt_buffers (h : Nat) (p : Path) (n : Nat) (s : State) :
    (openAttempt h p n s).buffers = s.buffers := by
  unfold openAttempt
  split <;> simp

@[simp] theorem openFrom_buffers (h : Nat) (l : List Path) (s : State) : (openFrom h l s).buffers = s.buffers := by
  unfold openFrom
  (repeat' split) <;> simp

@[simp] theorem nextAttempt_buffers (h : Nat) (c : Conv) (p : Path) (n : Nat) (s : State) :
    (nextAttempt h c p n s).buffers = s.buffers := by
  unfold nextAttempt
  split <;> simp

@[simp] theorem openTimerEnds_buffers (h : Nat) (s : State) : (openTimerEnds h s).buffers = s.buffers := by
  unfold openTimerEnds
  (repeat' split) <;> simp

@[simp] theorem closeAction_buffers (h : Nat) (s : State) : (closeAction h s).buffers = s.buffers := by
  unfold closeAction
  (repeat' split) <;> simp

@[simp] theorem closeTimerEnds_buffers (h : Nat) (s : State) : (closeTimerEnds h s).buffers = s.buffers := by
  unfold closeTimerEnds
  (repeat' split) <;> simp

@[simp] theorem holdEnds_buffers (h : Nat) (s : State) : (holdEnds h s).buffers = s.buffers := by
  unfold holdEnds
  (repeat' split) <;> simp

@[simp] theorem parkEnds_buffers (h : Nat) (s : State) : (parkEnds h s).buffers = s.buffers := by
  unfold parkEnds
  (repeat' split) <;> simp

@[simp] theorem holdOffEnds_buffers (k : Nat) (s : State) : (holdOffEnds k s).buffers = s.buffers := by
  unfold holdOffEnds
  (repeat' split) <;> simp

@[simp] theorem giveUp_buffers (k : Nat) (sl : Slot) (p : Path) (s : State) :
    (giveUp k sl p s).buffers = s.buffers := by
  unfold giveUp
  simp only
  split <;> simp

@[simp] theorem repeatAttempt_buffers (k : Nat) (sl : Slot) (p : Path) (a : Nat) (s : State) :
    (repeatAttempt k sl p a s).buffers = s.buffers := by
  unfold repeatAttempt
  split <;> simp

@[simp] theorem slotAction_buffers (k : Nat) (sl : Slot) (p : Path) (a : Nat) (s : State) :
    (slotAction k sl p a s).buffers = s.buffers := by
  unfold slotAction
  (repeat' split) <;> simp

@[simp] theorem slotInquiryEnds_buffers (k : Nat) (s : State) : (slotInquiryEnds k s).buffers = s.buffers := by
  unfold slotInquiryEnds
  (repeat' split) <;> simp

@[simp] theorem probeRoundEnds_buffers (p : Path) (s : State) : (probeRoundEnds p s).buffers = s.buffers := by
  unfold probeRoundEnds
  split <;> simp

@[simp] theorem becomeSound_buffers (p : Path) (s : State) : (becomeSound p s).buffers = s.buffers :=
  cueAll_buffers none p _

@[simp] theorem settleEnds_buffers (p : Path) (s : State) : (settleEnds p s).buffers = s.buffers := by
  unfold settleEnds
  simp only
  (repeat' split) <;> simp

@[simp] theorem lineQualified_buffers (p : Path) (b : Bool) (s : State) :
    (lineQualified p b s).buffers = s.buffers := by
  unfold lineQualified
  (repeat' split) <;> simp

@[simp] theorem lineSampled_buffers (p : Path) (b : Bool) (s : State) : (lineSampled p b s).buffers = s.buffers := by
  unfold lineSampled
  simp only
  (repeat' split) <;> simp

@[simp] theorem alarmQualified_buffers (p : Path) (b : Bool) (s : State) :
    (alarmQualified p b s).buffers = s.buffers := by
  unfold alarmQualified
  split <;> simp

@[simp] theorem alarmSampled_buffers (p : Path) (b : Bool) (s : State) : (alarmSampled p b s).buffers = s.buffers := by
  unfold alarmSampled
  simp only
  (repeat' split) <;> simp

/-! ## Requests whose owners touch no buffer (Machine/ConvRequests.lean to Machine/StationRequests.lean) -/

@[simp] theorem refuse_buffers (s : State) (r : Result) : (refuse s r).state.buffers = s.buffers := rfl

theorem issueCell_buffers {payload : List Byte} {s t : State} {n : Nat} (h : issueCell payload s = some (n, t)) :
    t.buffers = s.buffers := by
  unfold issueCell at h
  split at h
  · cases h
  · cases h
    rfl

@[simp] theorem acceptSend_buffers (h : Nat) (c : Conv) (q : Nat) (kind : RecKind) (payload : List Byte)
    (n : Nat) (s : State) :
    (acceptSend h c q kind payload n s).state.buffers = s.buffers := rfl

@[simp] theorem ownSend_buffers (h kind : Nat) (payload : List Byte) (s : State) :
    (ownSend h kind payload s).state.buffers = s.buffers := by
  unfold ownSend
  split
  · rfl
  split
  · rfl
  split
  · rfl
  split
  · rfl
  split
  · rfl
  split
  · rfl
  split
  · rfl
  · rename_i hcell
    exact (acceptSend_buffers ..).trans (issueCell_buffers hcell)

@[simp] theorem ownOpen_buffers (a : OpenArgs) (s : State) : (ownOpen a s).state.buffers = s.buffers := by
  unfold ownOpen
  (repeat' split) <;> simp

@[simp] theorem closeGracefully_buffers (h : Nat) (c : Conv) (s : State) :
    (closeGracefully h c s).state.buffers = s.buffers := by
  unfold closeGracefully
  (repeat' split) <;> simp

@[simp] theorem ownHold_buffers (h d : Nat) (s : State) : (ownHold h d s).state.buffers = s.buffers := by
  unfold ownHold
  (repeat' split) <;> simp

@[simp] theorem ownRelease_buffers (h : Nat) (s : State) : (ownRelease h s).state.buffers = s.buffers := by
  unfold ownRelease
  simp only
  (repeat' split) <;> simp

@[simp] theorem forceShift_buffers (h : Nat) (c : Conv) (target : Option Path) (s : State) :
    (forceShift h c target s).buffers = s.buffers := by
  unfold forceShift
  split <;> simp

@[simp] theorem ownShift_buffers (h : Nat) (target : Option Nat) (s : State) :
    (ownShift h target s).state.buffers = s.buffers := by
  unfold ownShift
  (repeat' split) <;> simp

@[simp] theorem ownRestage_buffers (h : Nat) (l : List Nat) (s : State) :
    (ownRestage h l s).state.buffers = s.buffers := by
  unfold ownRestage
  (repeat' split) <;> simp

@[simp] theorem ownClearReturned_buffers (h q : Nat) (s : State) :
    (ownClearReturned h q s).state.buffers = s.buffers := by
  unfold ownClearReturned
  (repeat' split) <;> simp

@[simp] theorem ownReadConversation_buffers (h : Nat) (s : State) :
    (ownReadConversation h s).state.buffers = s.buffers := by
  unfold ownReadConversation
  (repeat' split) <;> rfl

@[simp] theorem ownReadJournal_buffers (h : Nat) (s : State) : (ownReadJournal h s).state.buffers = s.buffers := by
  unfold ownReadJournal
  (repeat' split) <;> rfl

@[simp] theorem ownScan_buffers (st n d : Nat) (l : List Nat) (s : State) :
    (ownScan st n d l s).state.buffers = s.buffers := by
  unfold ownScan
  simp only
  (repeat' split) <;> rfl

@[simp] theorem ownAddPeer_buffers (a : AddPeerArgs) (s : State) : (ownAddPeer a s).state.buffers = s.buffers := by
  unfold ownAddPeer
  (repeat' split) <;> simp

@[simp] theorem removalTest_buffers (k : Nat) (e : Peer) (p : Path) (s : State) :
    (removalTest k e p s).buffers = s.buffers := by
  unfold removalTest
  split <;> simp
@[simp] theorem erasePeer_buffers (k : Nat) (s : State) : (erasePeer k s).buffers = s.buffers := rfl

@[simp] theorem ownRemovePeer_buffers (k : Nat) (s : State) : (ownRemovePeer k s).state.buffers = s.buffers := by
  unfold ownRemovePeer
  (repeat' split) <;> simp

@[simp] theorem ownReadPeer_buffers (k : Nat) (s : State) : (ownReadPeer k s).state.buffers = s.buffers := by
  unfold ownReadPeer
  (repeat' split) <;> rfl

@[simp] theorem ownSetPath_buffers (n : Nat) (a : SetPathArgs) (s : State) :
    (ownSetPath n a s).state.buffers = s.buffers := by
  unfold ownSetPath
  (repeat' split) <;> simp

@[simp] theorem ownQuench_buffers (n : Nat) (s : State) : (ownQuench n s).state.buffers = s.buffers := by
  unfold ownQuench
  (repeat' split) <;> simp

@[simp] theorem ownRevive_buffers (n : Nat) (s : State) : (ownRevive n s).state.buffers = s.buffers := by
  unfold ownRevive
  (repeat' split) <;> simp

@[simp] theorem ownDrain_buffers (n : Nat) (s : State) : (ownDrain n s).state.buffers = s.buffers := by
  unfold ownDrain
  (repeat' split) <;> simp

@[simp] theorem ownReadPath_buffers (n : Nat) (s : State) : (ownReadPath n s).state.buffers = s.buffers := by
  unfold ownReadPath
  (repeat' split) <;> rfl

@[simp] theorem ownSetStation_buffers (a : SetStationArgs) (s : State) :
    (ownSetStation a s).state.buffers = s.buffers := by
  unfold ownSetStation
  (repeat' split) <;> rfl

@[simp] theorem ownSetNoticeMask_buffers (l : List Nat) (s : State) :
    (ownSetNoticeMask l s).state.buffers = s.buffers := by
  unfold ownSetNoticeMask
  (repeat' split) <;> rfl

@[simp] theorem ownRestart_buffers (n : Nat) (s : State) : (ownRestart n s).state.buffers = s.buffers := by
  unfold ownRestart
  (repeat' split) <;> rfl

end Sys2Proof.Machine
end

section
/-! PROOFS. Every step keeps the buffers within their sizes: what deliveries, records, replies and completions do to them. -/

namespace Sys2Proof.Machine

/-! ## Deliveries accepted and discarded -/

/-- State `t` has the input buffer and the reply queue of `s`, and a delivery queue within its size if that of `s` was. -/
structure KeepsBuffers (s t : State) : Prop where
  input : t.hlu.input = s.hlu.input
  replies : t.hlu.replies = s.hlu.replies
  queue : QueueBounded s → QueueBounded t

theorem KeepsBuffers.of_eq {s t : State} (h : t.buffers = s.buffers) : KeepsBuffers s t := by
  obtain ⟨hi, hr, he⟩ : t.hlu.input = s.hlu.input ∧ t.hlu.replies = s.hlu.replies ∧ t.dlq.entries = s.dlq.entries := by
    simpa [State.buffers] using h
  exact ⟨hi, hr, fun hq => by rwa [QueueBounded, he]⟩

theorem KeepsBuffers.trans {s t u : State} (h : KeepsBuffers s t) (k : KeepsBuffers t u) : KeepsBuffers s u :=
  ⟨k.input.trans h.input, k.replies.trans h.replies, k.queue ∘ h.queue⟩

theorem KeepsBuffers.refl (s : State) : KeepsBuffers s s := .of_eq rfl

/-- Deliveries that are discarded make room (R1). -/
theorem discardDeliveries_keeps (h : Nat) (s : State) : KeepsBuffers s (discardDeliveries h s) :=
  ⟨rfl, rfl, fun hq => Nat.le_trans (List.length_filter_le ..) hq⟩

theorem vacate_keeps (h : Nat) (s : State) : KeepsBuffers s (vacate h s) := by
  unfold vacate
  split
  · exact .refl s
  · rename_i c _
    have hd := discardDeliveries_keeps h (leaveShift h (returnCells (c.journal.map JRec.cell) s))
    exact (KeepsBuffers.of_eq (by simp)).trans (hd.trans (.of_eq (by simp)))

/-- A DATA frame is accepted only while the delivery queue has room (R58, R59). -/
theorem takeData_keeps (h : Nat) (p : Path) (n q : Nat) (kind : RecKind) (pl : List Byte) (s : State) :
    KeepsBuffers s (takeData h p n q kind pl s) := by
  unfold takeData
  split
  · exact .refl s
  · simp only
    split
    · exact .refl s
    · split
      · split
        · rename_i hroom
          refine ⟨rfl, rfl, fun _ => ?_⟩
          show (s.dlq.entries ++ [_]).length ≤ Config.deliveryEntries
          rw [List.length_append]
          exact hroom
        · exact .of_eq (by simp)
      · exact .of_eq (by simp)

/-! ## Frames -/

theorem closeCompletion_keeps (h : Nat) (s : State) : KeepsBuffers s (closeCompletion h s) := by
  unfold closeCompletion
  split
  · exact .refl s
  · split
    · exact vacate_keeps h s
    · exact .refl s

theorem takeClose_keeps (h : Nat) (p : Path) (n : Nat) (s : State) : KeepsBuffers s (takeClose h p n s) := by
  unfold takeClose
  split
  · exact .refl s
  · split
    · simp only
      split
      · exact (KeepsBuffers.of_eq (by simp)).trans (closeCompletion_keeps h _)
      · exact (KeepsBuffers.of_eq (by simp)).trans (closeCompletion_keeps h _)
    · exact .refl s

theorem takeCloseReply_keeps (h n : Nat) (s : State) : KeepsBuffers s (takeCloseReply h n s) := by
  unfold takeCloseReply
  split
  · exact .refl s
  · split
    · exact (KeepsBuffers.of_eq (setConv_buffers h _ s)).trans (closeCompletion_keeps h _)
    · exact .refl s

/-- Of the own rules of bound frames, that of DATA fills the delivery queue and those of the close direction empty it. -/
theorem boundRule_keeps (was : ConvState) (h : Nat) (p : Path) (f : RxFrame) (s : State) :
    KeepsBuffers s (boundRule was h p f s) := by
  unfold boundRule
  cases f.body with
  | data q kind pl => exact takeData_keeps h p _ q kind pl s
  | close n => exact takeClose_keeps h p n s
  | closeReply n => exact takeCloseReply_keeps h n s
  | ack d => exact .of_eq (takeAck_buffers h d p s)
  | wait d => exact .of_eq (takeWaitFrom_buffers was h d p s)
  | inquiry v => exact .of_eq (takeInquiry_buffers h p _ v s)
  | answer out v d => exact .of_eq (takeAnswer_buffers h p _ out v d s)
  | _ => exact .refl s

theorem takeAddressed_keeps (p : Path) (k : Nat) (f : RxFrame) (s : State) : KeepsBuffers s (takeAddressed p k f s) := by
  unfold takeAddressed
  split
  · exact .of_eq (takeUnbound_buffers p k f s)
  · split
    · exact .of_eq (takeAbandon_buffers _ _ s)
    · exact (KeepsBuffers.of_eq (implicitAccept_buffers ..)).trans (boundRule_keeps ..)

theorem conversationRule_keeps (p : Path) (k : Nat) (f : RxFrame) (s : State) :
    KeepsBuffers s (conversationRule p k f s) := by
  unfold conversationRule
  split
  · split
    · exact .of_eq (takeOpen_buffers p k _ s)
    · exact .refl s
  · exact .of_eq (takeOpenReply_buffers p k f _ s)
  · exact takeAddressed_keeps p k f s

theorem takeAtTable_keeps (p : Path) (sender : Option Nat) (f : RxFrame) (s : State) :
    KeepsBuffers s (takeAtTable p sender f s) := by
  cases sender with
  | none => exact .refl s
  | some k => exact conversationRule_keeps p k f s

theorem takeLive_keeps (p : Path) (f : RxFrame) (s : State) : KeepsBuffers s (takeLive p f s) := by
  unfold takeLive
  simp only
  split
  · exact .of_eq (by simp)
  · exact .of_eq (by simp)
  · exact (KeepsBuffers.of_eq (by simp)).trans ((takeAtTable_keeps p _ f _).trans (.of_eq (frameCue_buffers ..)))

theorem takeFrame_keeps (p : Path) (f : RxFrame) (s : State) : KeepsBuffers s (takeFrame p f s) := by
  have hquenched : (takeQuenched p f s).buffers = s.buffers := by
    unfold takeQuenched
    simp only
    split <;> simp
  unfold takeFrame
  cases (s.path p).state with
  | down | drained => exact .refl s
  | quenched => exact .of_eq hquenched
  | proving | sound | suspect => exact takeLive_keeps p f s

theorem checkAndTake_keeps (p : Path) (hd : RxHead) (b : RxBody) (s : State) : KeepsBuffers s (checkAndTake p hd b s) := by
  unfold checkAndTake
  split
  · exact .refl s
  · split
    · exact .of_eq (addScore_buffers p 4 s)
    · split
      · exact .refl s
      · exact takeFrame_keeps p _ s

theorem receive_keeps (p : Path) (hd : RxHead) (b : RxBody) (s : State) : KeepsBuffers s (receive p hd b s) := by
  unfold receive
  split
  · exact checkAndTake_keeps p hd b s
  · exact .refl s

theorem receiveOctets_keeps (p : Path) (l : List Byte) (s : State) : KeepsBuffers s (receiveOctets p l s) := by
  unfold receiveOctets
  split
  · exact .refl s
  split
  · exact .of_eq (addScore_buffers p 4 s)
  split
  · exact .refl s
  split
  · exact .of_eq (addScore_buffers p 4 s)
  · exact checkAndTake_keeps p _ _ s

/-! ## Requests -/

theorem ownClose_keeps (h m : Nat) (s : State) : KeepsBuffers s (ownClose h m s).state := by
  unfold ownClose
  split
  · exact .refl s
  split
  · exact .refl s
  split
  · exact vacate_keeps h s
  split
  · exact .of_eq (closeGracefully_buffers ..)
  · unfold closeAborting
    simp only
    split
    · exact (KeepsBuffers.of_eq (queueOpt2_buffers ..)).trans (vacate_keeps h _)
    · exact vacate_keeps h s

/-- Whatever a request asks, its owner leaves the buffers of the link to the host link unit. -/
theorem ownRequest_keeps (r : Request) (s : State) : KeepsBuffers s (ownRequest r s).state := by
  cases r with
  | close h m => exact ownClose_keeps h m s
  | _ => exact .of_eq (by simp [ownRequest, ownReadStation])

/-! ## The host link (R162 to R164) -/

/-- State `t` keeps the bounds of `s`: the buffers of the link, and the delivery queue, are within their sizes if those of `s`
were. -/
def KeepsBounds (s t : State) : Prop := (LinkBounded s → LinkBounded t) ∧ (QueueBounded s → QueueBounded t)

theorem KeepsBounds.refl (s : State) : KeepsBounds s s := ⟨id, id⟩

theorem KeepsBounds.trans {s t u : State} (h : KeepsBounds s t) (k : KeepsBounds t u) : KeepsBounds s u :=
  ⟨k.1 ∘ h.1, k.2 ∘ h.2⟩

theorem KeepsBuffers.bounds {s t : State} (h : KeepsBuffers s t) : KeepsBounds s t :=
  ⟨fun ⟨hi, hr⟩ => ⟨h.input.symm ▸ hi, h.replies.symm ▸ hr⟩, h.queue⟩

theorem bounds_of_eq {s t : State} (h : t.buffers = s.buffers) : KeepsBounds s t := (KeepsBuffers.of_eq h).bounds

/-- The outbound arbiter takes at most one reply (R169). -/
theorem chooseOut_bounds (s : State) : KeepsBounds s (chooseOut s) := by
  refine ⟨fun ⟨hi, hr⟩ => ⟨by rwa [chooseOut_hlu_input], ?_⟩, fun hq => by rwa [QueueBounded, chooseOut_dlq_entries]⟩
  rcases chooseOut_replies s with h | h
  · rwa [h]
  · rw [h, List.length_tail]
    omega

theorem afterEvent_bounds (s : State) : KeepsBounds s (afterEvent s) :=
  (bounds_of_eq (t := beginAll s) (by simp [State.buffers])).trans (chooseOut_bounds _)

/-- The deciding of an entry adds one reply (R164). -/
theorem decideTaking_adds (x : Taking) (s : State) :
    ∃ t r, decideTaking x s = pushReply r t ∧ KeepsBuffers s t := by
  cases x with
  | bad | unknown | malformed => exact ⟨s, _, rfl, .refl s⟩
  | send tag h n len payload => exact ⟨_, _, rfl, .of_eq (ownSend_buffers h n payload s)⟩
  | request tag r => exact ⟨_, _, rfl, ownRequest_keeps r s⟩

/-- An entry is taken only while the reply queue has room (R164). -/
theorem takeHead_bounds {s : State} (hc : s.canTake = true) : KeepsBounds s (takeHead s) := by
  have hroom : s.hlu.replies.length < Config.replyEntries := by
    simp only [State.canTake, Bool.and_eq_true, decide_eq_true_eq] at hc
    exact hc.1.2
  unfold takeHead
  split
  · exact .refl s
  · rename_i e rest hin
    obtain ⟨t, r, ht, k⟩ := decideTaking_adds (decodeEntry e) (updHlu (fun u => { u with input := rest }) s)
    have hinput : t.hlu.input = rest := k.input
    have hreplies : t.hlu.replies = s.hlu.replies := k.replies
    rw [ht]
    refine ⟨fun ⟨hi, _⟩ => ⟨?_, ?_⟩, k.queue⟩
    · rw [hin, List.length_cons] at hi
      rw [pushReply_hlu, hinput]
      omega
    · rw [pushReply_hlu, hreplies, List.length_append]
      exact hroom

theorem intake_bounds : ∀ (n : Nat) (s : State), KeepsBounds s (intake n s)
  | 0, s => .refl s
  | n + 1, s => by
    unfold intake
    split
    · rename_i hc
      exact (takeHead_bounds hc).trans ((afterEvent_bounds _).trans (intake_bounds n _))
    · exact .refl s

/-- A record ends on the link only while the input buffer has room, the accept line being HIGH (R162, R163). -/
theorem endRecord_bounds (e : RecordEnd) {s : State} (ha : s.acceptHigh = true) : KeepsBounds s (endRecord e s) := by
  have hroom : s.hlu.input.length < Config.inputEntries := by
    simp only [State.acceptHigh, Bool.and_eq_true, decide_eq_true_eq] at ha
    exact ha.1.2
  refine KeepsBounds.trans (t := updHlu (fun u => { u with input := u.input ++ [e] }) s)
    ⟨fun ⟨_, hr⟩ => ⟨?_, hr⟩, id⟩ (intake_bounds _ _)
  rw [updHlu_hlu, List.length_append]
  exact hroom

/-- The parser's state is no part of the buffers, nor of the accept line. -/
theorem endRecord_parsed_bounds (e : RecordEnd) (x : Parser) {s : State} (ha : s.acceptHigh = true) :
    KeepsBounds s (endRecord e (updHlu (fun u => { u with parser := x }) s)) :=
  KeepsBounds.trans (t := updHlu (fun u => { u with parser := x }) s) (bounds_of_eq rfl) (endRecord_bounds e ha)

theorem hostRecord_bounds (e : RecordEnd) (s : State) : KeepsBounds s (hostRecord e s) := by
  unfold hostRecord
  split
  · rename_i ha
    exact endRecord_parsed_bounds e .hunting ha
  · exact .refl s

theorem octetArrived_bounds (o : Byte) (s : State) : KeepsBounds s (octetArrived o s) := by
  unfold octetArrived
  split
  · rename_i ha
    simp only
    split
    · exact (bounds_of_eq (t := updHlu (fun u => { u with parser := (parseOctet o u.parser).1 }) s) rfl).trans
        (afterEvent_bounds _)
    · exact endRecord_parsed_bounds _ _ ha
  · exact .refl s

/-! ## Starts and completions -/

/-- A start leaves every buffer empty (R172, R186). -/
theorem bounds_of_start (s : State) {t : State} (h : t.buffers = ([], [], [])) : KeepsBounds s t := by
  obtain ⟨hi, hr, he⟩ : t.hlu.input = [] ∧ t.hlu.replies = [] ∧ t.dlq.entries = [] := by
    simpa [State.buffers] using h
  exact ⟨fun _ => ⟨by simp [hi], by simp [hr]⟩, fun _ => by simp [QueueBounded, he]⟩

theorem afterCompletion_bounds {s t : State} (k : KeepsBounds s t) : KeepsBounds s (afterCompletion t) :=
  k.trans ((afterEvent_bounds t).trans (intake_bounds _ _))

theorem replyLeft_bounds (r : Reply) (s : State) : KeepsBounds s (replyLeft r s) := by
  unfold replyLeft
  split
  · exact bounds_of_eq rfl
  · rename_i kind _
    split
    · cases kind <;> exact bounds_of_start s rfl
    · exact bounds_of_eq rfl

/-- The completion of a DELIVER takes the head of the delivery queue at most (R60). -/
theorem deliverLeft_bounds (s : State) : KeepsBounds s (deliverLeft s) := by
  unfold deliverLeft
  split
  · rename_i e rest _ he
    refine KeepsBounds.trans (t := { s with dlq := { entries := rest, tx := .none } }) ⟨id, fun hq => ?_⟩
      (bounds_of_eq (by simp [deliveredTo]))
    rw [QueueBounded, he, List.length_cons] at hq
    exact Nat.le_of_succ_le hq
  · exact bounds_of_eq rfl

theorem replyDone_bounds (s : State) : KeepsBounds s (replyDone s) := by
  unfold replyDone
  split
  · exact afterCompletion_bounds (replyLeft_bounds _ s)
  · exact .refl s

theorem deliverDone_bounds (s : State) : KeepsBounds s (deliverDone s) := by
  unfold deliverDone
  split
  · exact afterCompletion_bounds ((bounds_of_eq (t := endOut s) rfl).trans (deliverLeft_bounds _))
  · exact .refl s

theorem noticeDone_bounds (s : State) : KeepsBounds s (noticeDone s) := by
  unfold noticeDone
  split
  · exact afterCompletion_bounds (bounds_of_eq rfl)
  · exact .refl s

theorem frameLeft_bounds (p : Path) (s : State) : KeepsBounds s (frameLeft p s) := by
  unfold frameLeft
  simp only
  split
  · exact .refl s
  · split
    · exact (bounds_of_eq (updPath_buffers ..)).trans (chooseOut_bounds _)
    · exact (bounds_of_eq (updPath_buffers ..)).trans (afterEvent_bounds _)

/-! ## Commands and steps -/

theorem event_bounds {f : State → State} {s : State} (hf : KeepsBuffers s (f s)) : KeepsBounds s (event f s) := by
  unfold event
  split
  · exact .refl s
  · exact hf.bounds.trans (afterEvent_bounds _)

/-- Every command keeps the bounds: starts empty the buffers, records and completions go by the host link, and the events of
timers and samples touch no buffer. -/
theorem exec_bounds {c : Instr} {s t : State} (h : exec c s = .next t) : KeepsBounds s t := by
  cases c <;> cases h
  case powerOn | resetAssert => exact bounds_of_start s rfl
  case replyCompletion => exact replyDone_bounds s
  case deliverCompletion => exact deliverDone_bounds s
  case noticeCompletion => exact noticeDone_bounds s
  case frameCompletion p => exact frameLeft_bounds p s
  case octetArrival o => exact octetArrived_bounds o s
  case frameCheckFailure p l => exact event_bounds (receiveOctets_keeps p l s)
  case dataReceived | ackReceived | waitReceived | inquiryReceived | answerReceived | openReceived | openReplyReceived |
      closeReceived | closeReplyReceived | abandonReceived | probeReceived | echoReceived =>
    exact event_bounds (receive_keeps _ _ _ s)
  case lineSample | alarmSample | settleExpiry | probeRound | ackTimerExpiry | inquiryTimerExpiry | waitPauseExpiry |
      openTimerExpiry | closeTimerExpiry | holdExpiry | parkExpiry | holdOffExpiry | slotInquiryExpiry =>
    exact event_bounds (.of_eq (by simp))
  all_goals exact hostRecord_bounds _ s

theorem step_bounds {s t : State} (h : step s = .next t) : KeepsBounds s t := by
  unfold step at h
  split at h
  · cases h
    unfold idle
    split
    · exact .refl s
    · exact (bounds_of_eq (t := { s with stc := { s.stc with time := s.stc.time + 1 } }) rfl).trans (afterEvent_bounds _)
  · rename_i c rest _
    exact (bounds_of_eq (t := { s with pending := rest }) rfl).trans (exec_bounds h)

/-- Settles O4: every step keeps the bounds. -/
theorem everyStepKeepsTheBuffersBounded : Obligations.EveryStepKeepsTheBuffersBounded :=
  ⟨fun _ _ hs h => (step_bounds h).1 hs, fun _ _ hs h => (step_bounds h).2 hs⟩

end Sys2Proof.Machine
end

section
/-! PROOFS. Acknowledgements: the path of R62's order, the pending one and the new one; and the completions on the host link
that free it. -/

namespace Sys2Proof.Machine

/-! ## The path of an acknowledgement (R62) -/

section
variable {s : State} {c : Conv} {own : Option Path}

theorem filter_serving_some {p : Path} (hp : (s.path p).state.inService = true) :
    (some p).filter s.serving = some p := by
  simp [Option.filter, State.serving, hp]

theorem ackPathFor_own {p : Path} (ho : own = some p) (hp : (s.path p).state.inService = true) :
    s.ackPathFor c own = some p := by
  simp only [State.ackPathFor, ho, filter_serving_some hp]

/-- A frame's own path counts only while it is in service. -/
theorem filter_serving_none {o : Option Path} (h : ∀ p, o = some p → (s.path p).state.inService = false) :
    o.filter s.serving = none := by
  cases o with
  | none => rfl
  | some p => simp [State.serving, h p rfl]

section
variable (ho : own = none ∨ ∃ p, own = some p ∧ (s.path p).state.inService = false)
include ho

/-- Without a serving path of its own, a frame's acknowledgement goes by the record. -/
theorem ackPathFor_record : s.ackPathFor c own = s.ackPathFor c none := by
  have hown : own.filter s.serving = none := filter_serving_none fun p hp => by
    rcases ho with h | ⟨q, hq, hs⟩
    · rw [h] at hp
      cases hp
    · rw [hq] at hp
      cases hp
      exact hs
  simp only [State.ackPathFor, hown, Option.filter_none]

theorem ackPathFor_ackPath {p : Path} (ha : c.ackPath = some p) (hp : (s.path p).state.inService = true) :
    s.ackPathFor c own = some p := by
  rw [ackPathFor_record ho]
  simp only [State.ackPathFor, Option.filter_none, ha, filter_serving_some hp]

/-- Past the ack path stand the active path and then the first usable path of the list. -/
theorem ackPathFor_rest (ha : ∀ p, c.ackPath = some p → (s.path p).state.inService = false) :
    (∀ p, c.active = some p → s.ackPathFor c own = some p) ∧
      (c.active = none → s.ackPathFor c own = c.prefs.find? (s.usable c.peer)) := by
  rw [ackPathFor_record ho]
  simp only [State.ackPathFor, Option.filter_none, filter_serving_none ha]
  exact ⟨fun p hp => by rw [hp], fun hn => by rw [hn]⟩

end
end

/-! ## Pending and new acknowledgements (R62) -/

theorem ownedBy_iff (h : Nat) (f : QFrame) : f.ownedBy h = true ↔ f.owner = some h := by simp [QFrame.ownedBy]

theorem ackBody_eq (w : Bool) (d : Nat) : ackBody w d = if w = true then .wait d else .ack d := rfl

/-- A path's record is one of the four. -/
theorem PerPath.mem_toList {α : Type} (t : PerPath α) (x : α) : x ∈ t.toList ↔ ∃ p, t.get p = x := by
  have hl : t.toList = Path.all.map t.get := rfl
  rw [hl, List.mem_map]
  exact ⟨fun ⟨p, _, hp⟩ => ⟨p, hp⟩, fun ⟨p, hp⟩ => ⟨p, mem_pathAll p, hp⟩⟩

theorem ackPending_iff (s : State) (h : Nat) :
    s.ackPending h = true ↔ ∃ p, ∃ f ∈ (s.path p).class4, f.owner = some h := by
  simp only [State.ackPending, List.any_eq_true, PerPath.mem_toList, ownedBy_iff]
  constructor
  · rintro ⟨_, ⟨p, rfl⟩, hf⟩
    exact ⟨p, hf⟩
  · rintro ⟨p, hf⟩
    exact ⟨_, ⟨p, rfl⟩, hf⟩

theorem rekindAck_path (h : Nat) (w : Bool) (d : Nat) (s : State) (p : Path) :
    (rekindAck h w d s).path p = { s.path p with
      class4 := (s.path p).class4.map fun f =>
        if f.owner = some h then { f with body := if w = true then .wait d else .ack d } else f } := by
  show (PerPath.map _ s.paths).get p = _
  rw [PerPath.get_map]
  simp only [ownedBy_iff, ackBody_eq]
  rfl

section
variable {s : State} {h : Nat} {c : Conv} (hc : s.conv h = some c)
include hc

/-- A LAPSED conversation acknowledges nothing. -/
theorem requestAck_lapsed (hl : c.state = .lapsed) (w : Bool) (own : Option Path) : requestAck h w own s = s := by
  unfold requestAck
  rw [hc]
  exact if_pos hl

theorem requestAck_pending (hl : c.state ≠ .lapsed) (hp : ∃ p, ∃ f ∈ (s.path p).class4, f.owner = some h) (w : Bool)
    (own : Option Path) : requestAck h w own s = rekindAck h w c.delivered s := by
  unfold requestAck
  rw [hc]
  simp only [if_neg hl, (ackPending_iff s h).2 hp, if_true]

omit hc in
/-- With none pending, a request places a new acknowledgement. -/
theorem requestAck_new (hl : ∀ c, s.conv h = some c → c.state ≠ .lapsed)
    (hn : ∀ p, ∀ f ∈ (s.path p).class4, f.owner ≠ some h) (w : Bool) (own : Option Path) :
    requestAck h w own s = placeAck h w own s := by
  have hp : s.ackPending h = false := by
    rw [Bool.eq_false_iff, Ne, ackPending_iff]
    rintro ⟨p, f, hf, ho⟩
    exact hn p f hf ho
  unfold requestAck
  split
  · rename_i hv
    unfold placeAck
    rw [hv]
  · rename_i c hc
    rw [if_neg (hl c hc), hp, if_neg (by simp)]

/-- No path qualifies: no acknowledgement is queued. -/
theorem placeAck_none {own : Option Path} (hp : s.ackPathFor c own = none) (w : Bool) : placeAck h w own s = s := by
  unfold placeAck
  rw [hc]
  simp only [hp, ite_self]

/-- The new acknowledgement joins class 4 of the path that R62 chooses, with the shift number of that instant. -/
theorem placeAck_chosen (hl : c.state ≠ .lapsed) {own : Option Path} {p : Path} {e : Peer} {a : LinkAddr}
    (hp : s.ackPathFor c own = some p) (he : s.peer c.peer = some e) (ha : (e.links.get p).link = some a) (w : Bool) :
    placeAck h w own s = s.withPath p { s.path p with
      class4 := (s.path p).class4 ++
        [answerTo e a (some h) c.peerHandle c.inShift
          (if w = true then .wait c.delivered else .ack c.delivered) (some h)] } := by
  unfold placeAck
  rw [hc]
  simp only [if_neg hl, hp, frameTo_present he ha, ackBody_eq]
  rfl

end

/-- Settles O60: a request goes by whether one is pending, its path by the order of `ackPathFor`. -/
theorem acknowledgementsAreRequestedOnce : Obligations.AcknowledgementsAreRequestedOnce := by
  refine ⟨fun s h w own c hc => ⟨fun hl => requestAck_lapsed hc hl w own, fun hl hp => ?_,
    fun hl hn => ⟨fun hp => ?_, ?_⟩, fun p ho hp => ackPathFor_own ho hp,
    fun ho => ⟨fun p ha hp => ackPathFor_ackPath ho ha hp, ackPathFor_rest ho⟩⟩,
    fun s f h c ho hc => ⟨fun d => (beginBody_ack ho hc d).1, fun d => (beginBody_ack ho hc d).2⟩⟩
  · exact ⟨_, rfl, by rw [requestAck_pending hc hl hp]; rfl, by
      rw [requestAck_pending hc hl hp]
      exact rekindAck_path h w c.delivered s⟩
  · rw [requestAck_new (fun d hd => by cases hc.symm.trans hd; exact hl) hn, placeAck_none hc hp]
  · intro p e a hp he ha
    rw [requestAck_new (fun d hd => by cases hc.symm.trans hd; exact hl) hn, placeAck_chosen hc hl hp he ha]

/-! ## Completions on the host link (R60, R61, R171) -/

section
variable {s : State}

theorem exec_deliverCompletion {d : DlqEntry} (ho : s.hlu.out = some (.deliver d)) :
    exec .deliverCompletion s = .next (intakeAll (afterEvent (deliverLeft (endOut s)))) := by
  show Host.Outcome.next (deliverDone s) = _
  unfold deliverDone
  rw [ho]
  rfl

theorem exec_noticeCompletion {n : Notice} (ho : s.hlu.out = some (.notice n)) :
    exec .noticeCompletion s = .next (intakeAll (afterEvent (endOut s))) := by
  show Host.Outcome.next (noticeDone s) = _
  unfold noticeDone
  rw [ho]
  rfl

theorem exec_replyCompletion {r : Reply} (ho : s.hlu.out = some (.reply r)) :
    exec .replyCompletion s = .next (intakeAll (afterEvent (replyLeft r s))) := by
  show Host.Outcome.next (replyDone s) = _
  unfold replyDone
  rw [ho]
  rfl

/-- A completion with nothing in transmission changes nothing (log entry 6). -/
theorem exec_completion_idle (ho : s.hlu.out = none) :
    exec .replyCompletion s = .next s ∧ exec .deliverCompletion s = .next s ∧ exec .noticeCompletion s = .next s := by
  have hr : replyDone s = s := by simp [replyDone, ho]
  have hd : deliverDone s = s := by simp [deliverDone, ho]
  have hn : noticeDone s = s := by simp [noticeDone, ho]
  exact ⟨congrArg Host.Outcome.next hr, congrArg Host.Outcome.next hd, congrArg Host.Outcome.next hn⟩

/-- A reply that is not the pending RESTART's frees the link alone (R171). -/
theorem replyLeft_frees {r : Reply} (h : s.hlu.restart = none ∨ r.code ≠ 22) : replyLeft r s = endOut s := by
  unfold replyLeft
  split
  · rfl
  · rename_i k hk
    have hcode : r.code ≠ 22 := h.resolve_left (by rw [hk]; simp)
    rw [if_neg (by simp [Reply.isRestart, hcode])]

/-- The head that leaves the link leaves the queue, and its conversation's delivered-through advances (R60). -/
theorem deliverLeft_head {e : DlqEntry} {rest : List DlqEntry} {c : Conv} (ht : s.dlq.tx = .head)
    (he : s.dlq.entries = e :: rest) (hc : s.conv e.handle = some c) :
    deliverLeft s = requestAck e.handle false none
      (State.withConv { s with dlq := { entries := rest, tx := .none } } e.handle { c with delivered := e.seq }) := by
  have hc' : State.conv { s with dlq := { entries := rest, tx := .none } } e.handle = some c := hc
  unfold deliverLeft deliveredTo
  rw [ht, he]
  simp only [updConv_eq hc']

/-- A DELIVER whose conversation is gone changes none (R61). -/
theorem deliverLeft_orphaned (ht : s.dlq.tx = .orphaned) : deliverLeft s = { s with dlq := { s.dlq with tx := .none } } := by
  unfold deliverLeft
  rw [ht]

end

/-- Settles O31: each completion is its own operation on the state with the link free. -/
theorem completionsFreeTheLink : Obligations.CompletionsFreeTheLink := by
  refine ⟨fun s d ho => ⟨fun e rest c ht he hc => ?_, fun ht => ?_⟩, fun s => ⟨fun n ho => exec_noticeCompletion ho,
    fun r ho hr => ?_, exec_completion_idle⟩⟩
  · have hx := exec_deliverCompletion ho
    rw [deliverLeft_head (s := endOut s) ht he hc] at hx
    refine ⟨fun hl => ?_, fun _ => hx⟩
    rwa [requestAck_lapsed (c := { c with delivered := e.seq }) (State.conv_withConv_same ..) hl] at hx
  · rw [exec_deliverCompletion ho, deliverLeft_orphaned (s := endOut s) ht]
    rfl
  · rw [exec_replyCompletion ho, replyLeft_frees hr]
    rfl

end Sys2Proof.Machine
end

section
/-! PROOFS. Shift causes and reattach cues: who is cued, the place in the shift queue, the two operations by state, and what
leaving service hands on. -/

namespace Sys2Proof.Machine

/-! ## Who is cued (R5, R68, R77, R118) -/

theorem inService_iff (st : PathState) : st.inService = true ↔ st = .sound ∨ st = .suspect := by
  cases st <;> simp [PathState.inService]

/-- A path is usable while it is in service and the peer is REACHABLE on it (R5). -/
theorem usable_iff (s : State) (k : Nat) (p : Path) : s.usable k p = true ↔
    ((s.path p).state = .sound ∨ (s.path p).state = .suspect) ∧
      ∃ e, s.peer k = some e ∧ (e.links.get p).reach = .reachable := by
  have hreach : s.reachOn k p = .reachable ↔ ∃ e, s.peer k = some e ∧ (e.links.get p).reach = .reachable := by
    unfold State.reachOn
    cases s.peer k <;> simp
  simp only [State.usable, Bool.and_eq_true, decide_eq_true_eq, inService_iff, hreach]

theorem cueable_iff (s : State) (k : Option Nat) (p : Path) (h : Nat) : s.cueable k p h = true ↔
    ∃ c, s.conv h = some c ∧ c.state = .parked ∧ p ∈ c.prefs ∧ s.usable c.peer p = true ∧
      ∀ n, k = some n → c.peer = n := by
  unfold State.cueable
  cases s.conv h with
  | none => simp
  | some c => cases k <;> simp [and_assoc]

theorem handles_pairwise {s : State} (ht : TablesCanonical s) : s.handles.Pairwise (· < ·) := of_decide_eq_true ht.1

/-! ## The place in the shift queue (R129) -/

theorem placeEntry_eq (h : Nat) (c : Conv) (q : List QueueEntry) :
    placeEntry ⟨h, classOf c⟩ q =
      if (sentSingle c.journal).isSome = true then
        q.takeWhile (fun e => decide (e.cls = .commitFirst)) ++
          ⟨h, .commitFirst⟩ :: q.dropWhile (fun e => decide (e.cls = .commitFirst))
      else q ++ [⟨h, .ordinary⟩] := by
  unfold classOf
  split <;> rfl

theorem placeEntry_length (e : QueueEntry) (q : List QueueEntry) : (placeEntry e q).length = q.length + 1 := by
  unfold placeEntry
  split
  · conv => rhs; rw [← List.takeWhile_append_dropWhile (p := QueueEntry.isCommit) (l := q)]
    simp only [List.length_append, List.length_cons]
    omega
  · simp

/-- The state in which a conversation waits SHIFT-QUEUED with a record, its entry placed by class, before any grant. -/
def State.queued (s : State) (h : Nat) (c : Conv) : State :=
  { s.withConv h { c with state := .shiftQueued } with
    she := { s.she with queue := placeEntry ⟨h, classOf c⟩ s.she.queue } }

theorem enterQueue_eq {s : State} {h : Nat} {c : Conv} (hc : s.conv h = some c) :
    enterQueue h s = grantAll (s.queued h c) := by
  unfold enterQueue joinQueue
  rw [hc]
  rfl

/-- A record written just before its conversation joins the queue is the one that waits. -/
theorem enterQueue_setConv (h : Nat) (c : Conv) (s : State) : enterQueue h (setConv h c s) = grantAll (s.queued h c) := by
  rw [enterQueue_eq (State.conv_setConv_same h c s)]
  unfold State.queued
  rw [show (setConv h c s).withConv h { c with state := .shiftQueued } = s.withConv h { c with state := .shiftQueued } from
    State.withConv_withConv s h c _]
  rfl

/-- Without a free slot the conversation waits in the queue (R131). -/
theorem grantAll_queued {s : State} (hf : s.freeSlotNo = none) (h : Nat) (c : Conv) :
    grantAll (s.queued h c) = s.queued h c := grantAll_none hf

theorem queued_conv (s : State) (h : Nat) (c : Conv) : (s.queued h c).conv h = some { c with state := .shiftQueued } :=
  State.conv_withConv_same s h _

theorem queued_conv_other (s : State) {h j : Nat} (c : Conv) (hj : j ≠ h) : (s.queued h c).conv j = s.conv j :=
  State.conv_withConv_other s _ hj

/-! ## Shift causes (R123, R124, R126) -/

/-- A record off its path, its timers stopped and a CLOSE to be sent again (R123). -/
def Conv.offPath (c : Conv) : Conv :=
  { c with
    active := none
    ackTimer := .stopped
    waitPause := none
    closeStage := if c.closeStage = .closeSent then .draining else c.closeStage
    closeTimer := none }

/-- The state with the class-2 frames of a conversation withdrawn from its active path (R123). -/
def State.leftBy (s : State) (h : Nat) (c : Conv) : State :=
  match c.active with
  | none => s
  | some p => withdrawClass2 h p s

theorem withdrawClass2_eq (h : Nat) (p : Path) (s : State) :
    withdrawClass2 h p s = s.withPath p { s.path p with
      class2 := (s.path p).class2.filter fun f => decide (f.owner ≠ some h) } := by
  have e : (fun f : QFrame => !f.ownedBy h) = fun f => decide (f.owner ≠ some h) := by
    funext f
    simp [QFrame.ownedBy]
  unfold withdrawClass2
  rw [e]
  rfl

theorem leftBy_active {c : Conv} {p : Path} (hp : c.active = some p) (h : Nat) (s : State) :
    s.leftBy h c = s.withPath p { s.path p with
      class2 := (s.path p).class2.filter fun f => decide (f.owner ≠ some h) } := by
  rw [State.leftBy, hp]
  exact withdrawClass2_eq h p s

/-- Leaving a path touches the paths alone. -/
theorem leftBy_rest (s : State) (h : Nat) (c : Conv) :
    (s.leftBy h c).convs = s.convs ∧ (s.leftBy h c).she = s.she ∧ (s.leftBy h c).ntu = s.ntu := by
  unfold State.leftBy
  split <;> exact ⟨rfl, rfl, rfl⟩

section
variable {s : State} {h : Nat} {c : Conv} (hc : s.conv h = some c)
include hc

theorem shiftCause_other (hs : c.state ≠ .carrying) (a : Bool) : shiftCause a h s = s := by
  unfold shiftCause
  rw [hc]
  exact if_neg hs

/-- A held conversation is WITHHELD by an automatic cause (R126). -/
theorem shiftCause_withheld (hs : c.state = .carrying) (hh : c.hold ≠ none) :
    shiftCause true h s =
      raiseConv h .withheld ((s.leftBy h c).withConv h { c.offPath with state := .withheld }) := by
  have hhold : c.hold.isSome = true := Option.isSome_iff_ne_none.2 hh
  unfold shiftCause
  rw [hc]
  simp only [if_pos hs, hhold, Bool.and_self, if_true]
  rfl

/-- A cause that is not automatic, or meets no hold, puts the conversation into the shift queue (R123). -/
theorem shiftCause_queued (hs : c.state = .carrying) {a : Bool} (ha : a = false ∨ c.hold = none) :
    shiftCause a h s = grantAll ((s.leftBy h c).queued h c.offPath) := by
  have hhold : (a && c.hold.isSome) = false := by
    rcases ha with rfl | ha
    · rfl
    · simp [ha]
  rw [← enterQueue_setConv]
  unfold shiftCause
  rw [hc]
  simp only [if_pos hs, hhold, Bool.false_eq_true, if_false]
  rfl

/-! ## Reattach cues (R145) -/

theorem cue_other (hs : c.state ≠ .parked) : cue h s = s := by
  unfold cue
  rw [hc]
  exact if_neg hs

theorem cue_withheld (hs : c.state = .parked) (hh : c.hold ≠ none) :
    cue h s = raiseConv h .withheld (s.withConv h { c with state := .withheld, parkStart := none }) := by
  unfold cue
  rw [hc]
  simp only [hs, Option.isSome_iff_ne_none.2 hh, if_true]
  rfl

theorem cue_queued (hs : c.state = .parked) (hh : c.hold = none) :
    cue h s = grantAll (s.queued h { c with parkStart := none }) := by
  rw [← enterQueue_setConv]
  unfold cue
  rw [hc]
  simp [hs, hh]

end

/-! ## Leaving service (R81) -/

/-- A withdrawn acknowledgement, with none pending, is requested again without an arrival path (R63). -/
theorem replaceAck_eq {t : State} {f : QFrame} {h : Nat} (ho : f.owner = some h)
    (hl : ∀ c, t.conv h = some c → c.state ≠ .lapsed) (hn : ∀ p, ∀ g ∈ (t.path p).class4, g.owner ≠ some h) :
    replaceAck f t = requestAck h f.body.isWait none t := by
  rw [requestAck_new hl hn]
  unfold replaceAck
  rw [ho]

theorem leaveService_eq {s u : State} {p : Path} (acks : List QFrame)
    (hu : u = (s.handles.filter fun h => (s.conv h).any fun c => decide (c.active = some p)).foldl
      (fun t h => shiftCause true h t) s) :
    leaveService p acks s = acks.foldl (fun t f => replaceAck f t) (dropCandidates p none u) := by
  have hactive : s.activeOn p = fun h => (s.conv h).any fun c => decide (c.active = some p) := by
    funext h
    exact activeOn_eq s p h
  unfold leaveService
  rw [hactive, hu]
  rfl

/-! ## The statement -/

/-- Settles O57: a cause and a cue are their states by the record's own state, the entry placed by class. -/
theorem causesAndCuesMoveConversations : Obligations.CausesAndCuesMoveConversations := by
  refine ⟨fun s k p => ⟨rfl, mem_handles s, handles_pairwise, cueable_iff s k p⟩, usable_iff, fun s h c q hc hq => ?_,
    fun s => KMap.lowestFree_spec _ _, fun s h c hc => ⟨fun hs a => shiftCause_other hc hs a, cue_other hc,
      fun hs hh => ?_, fun hs hf a ha => ?_, fun hs => ⟨cue_withheld hc hs, fun hh hf => ?_⟩⟩,
    fun s h c q hc hq => ⟨fun a p hs hp ha => ?_, fun hs hh => ?_⟩, fun s hf => grantAll_none hf,
    fun s p acks u hu => ⟨leaveService_eq acks hu, fun t f h ho hl hn => replaceAck_eq ho hl hn⟩⟩
  · simp only [← sentSingle_isSome] at hq
    rw [enterQueue_eq hc, hq, ← placeEntry_eq]
    rfl
  · refine ⟨_, rfl, ?_⟩
    rw [shiftCause_withheld hc hs hh]
    refine ⟨(mem_reasonsAt_raiseConv ..).2 (.inl rfl), (leftBy_rest s h c).2.1, State.conv_withConv_same .., fun p hp => ?_⟩
    show ((s.leftBy h c).path p).class2 = _
    rw [leftBy_active hp, State.path_withPath_same]
  · obtain ⟨hconvs, hshe, hntu⟩ := leftBy_rest s h c
    have hf' : (s.leftBy h c).freeSlotNo = none := by
      rw [State.freeSlotNo, hshe]
      exact hf
    refine ⟨_, rfl, ?_⟩
    rw [shiftCause_queued hc hs ha, grantAll_queued hf']
    refine ⟨hntu, show (s.leftBy h c).she.slots = s.she.slots by rw [hshe], queued_conv ..,
      fun j hj => ?_, ?_⟩
    · rw [queued_conv_other _ _ hj, State.conv_congr hconvs]
    · rw [← placeEntry_eq, ← hshe]
      rfl
  · rw [cue_queued hc hs hh, grantAll_queued hf]
    exact ⟨queued_conv s h _, placeEntry_length _ _⟩
  · rw [shiftCause_queued hc hs ha, leftBy_active hp, hq, ← placeEntry_eq]
    rfl
  · rw [cue_queued hc hs hh, hq, ← placeEntry_eq]
    rfl

end Sys2Proof.Machine
end

section
/-! PROOFS. Rules that the statements about paths share: what a read of a path or a peer entry finds after an update of
another block, and a condition that is handed to the quench unit. -/

namespace Sys2Proof.Machine

/-! ## Reading a path and a peer entry -/

@[simp] theorem State.path_raisePath (p q : Path) (r : Reason) (s : State) : (raisePath p r s).path q = s.path q := rfl
@[simp] theorem State.path_raisePeer (k : Nat) (q : Path) (r : Reason) (s : State) : (raisePeer k r s).path q = s.path q := rfl
@[simp] theorem State.path_setRound (p q : Path) (t : Option Nat) (s : State) : (setRound p t s).path q = s.path q := rfl
@[simp] theorem State.path_atTime (q : Path) (t : Nat) (s : State) : (s.atTime t).path q = s.path q := rfl
@[simp] theorem State.path_hunting (q : Path) (s : State) : s.hunting.path q = s.path q := rfl
@[simp] theorem State.path_updLink (k : Nat) (p q : Path) (f : PeerLink → PeerLink) (s : State) :
    (updLink k p f s).path q = s.path q := State.path_congr (updLink_paths k p f s) q

@[simp] theorem State.peer_raisePath (p : Path) (k : Nat) (r : Reason) (s : State) : (raisePath p r s).peer k = s.peer k := rfl
@[simp] theorem State.peer_raisePeer (j k : Nat) (r : Reason) (s : State) : (raisePeer j r s).peer k = s.peer k := rfl
@[simp] theorem State.peer_withPath (p : Path) (k : Nat) (r : PathRec) (s : State) : (s.withPath p r).peer k = s.peer k := rfl
@[simp] theorem State.peer_atTime (k : Nat) (t : Nat) (s : State) : (s.atTime t).peer k = s.peer k := rfl

theorem State.path_withPath_other (s : State) {p q : Path} (r : PathRec) (h : q ≠ p) : (s.withPath p r).path q = s.path q :=
  (s.path_withPath p q r).trans (if_neg h)

/-- Of two writes to a path the later one stands. -/
theorem State.withPath_withPath (s : State) (p : Path) (r x : PathRec) : (s.withPath p r).withPath p x = s.withPath p x := by
  show ({ s with paths := (s.paths.set p r).set p x } : State) = _
  rw [PerPath.set_set]
  rfl

theorem live_iff (st : PathState) : st.live = true ↔ st = .proving ∨ st = .sound ∨ st = .suspect := by
  cases st <;> simp [PathState.live]

/-- A reason that is raised of a path is pending. -/
theorem mem_reasons_raisePath (p : Path) (x r : Reason) (s : State) :
    r ∈ (raisePath p x s).ntu.paths.get p ↔ r = x ∨ r ∈ s.ntu.paths.get p := by
  simp [mem_insertIn_reason]

/-! ## Conditions (R93) -/

/-- A source quenches a live path that enables it (R93). -/
theorem handCondition_fires {s : State} {p : Path} {src : QuenchSource} (why : Cause) (hl : (s.path p).state.live = true)
    (hs : src ∈ (s.path p).sources) : handCondition src why p s = quenchPath p why s := by
  simp [handCondition, State.fires, hl, hs]

/-- A source does nothing to a path that is not live or does not enable it (R93). -/
theorem handCondition_idle {s : State} {p : Path} {src : QuenchSource} (why : Cause)
    (h : (s.path p).state.live = false ∨ src ∉ (s.path p).sources) : handCondition src why p s = s := by
  rcases h with h | h <;> simp [handCondition, State.fires, h]

end Sys2Proof.Machine
end

section
/-! PROOFS. SET PATH on a ready link: what its value check accepts, and the settings it writes. -/

namespace Sys2Proof.Machine

/-! ## Lists of path numbers and of source codes -/

theorem ofNum_eq_some {n : Nat} {p : Path} : Path.ofNum n = some p ↔ p.num = n := by
  rcases n with _ | _ | _ | _ | n <;> cases p <;> simp [Path.ofNum, Path.num]

theorem sourceOfCode_eq_some {c : Nat} {x : QuenchSource} : sourceOfCode c = some x ↔ codeOfSource x = c := by
  rcases c with _ | _ | _ | _ | _ | c <;> cases x <;> simp [sourceOfCode, codeOfSource]

theorem pathsOfNums_eq_some {l : List Nat} {ps : List Path} : pathsOfNums l = some ps ↔ ps.map Path.num = l := by
  induction l generalizing ps with
  | nil => simp [pathsOfNums, eq_comm]
  | cons n l ih =>
    have hcons : pathsOfNums (n :: l) = some ps ↔ ∃ p qs, Path.ofNum n = some p ∧ pathsOfNums l = some qs ∧ p :: qs = ps := by
      rw [pathsOfNums]
      cases Path.ofNum n <;> cases pathsOfNums l <;> simp
    simp only [hcons, ofNum_eq_some, ih, List.map_eq_cons_iff]
    exact ⟨fun ⟨p, qs, hp, hq, e⟩ => ⟨p, qs, e.symm, hp, hq⟩, fun ⟨p, qs, e, hp, hq⟩ => ⟨p, qs, hp, hq, e.symm⟩⟩

theorem sourcesOfCodes_eq_some {l : List Nat} {xs : List QuenchSource} :
    sourcesOfCodes l = some xs ↔ xs.map codeOfSource = l := by
  induction l generalizing xs with
  | nil => simp [sourcesOfCodes, eq_comm]
  | cons n l ih =>
    have hcons : sourcesOfCodes (n :: l) = some xs ↔
        ∃ x ys, sourceOfCode n = some x ∧ sourcesOfCodes l = some ys ∧ x :: ys = xs := by
      rw [sourcesOfCodes]
      cases sourceOfCode n <;> cases sourcesOfCodes l <;> simp
    simp only [hcons, sourceOfCode_eq_some, ih, List.map_eq_cons_iff]
    exact ⟨fun ⟨p, qs, hp, hq, e⟩ => ⟨p, qs, e.symm, hp, hq⟩, fun ⟨p, qs, e, hp, hq⟩ => ⟨p, qs, hp, hq, e.symm⟩⟩

theorem exists_num_eq {n : Nat} : (∃ p : Path, p.num = n) ↔ n ≤ 3 := by
  constructor
  · rintro ⟨p, rfl⟩
    cases p <;> decide
  · intro h
    interval_cases n
    exacts [⟨.p0, rfl⟩, ⟨.p1, rfl⟩, ⟨.p2, rfl⟩, ⟨.p3, rfl⟩]

theorem exists_code_eq {c : Nat} : (∃ x : QuenchSource, codeOfSource x = c) ↔ 1 ≤ c ∧ c ≤ 4 := by
  constructor
  · rintro ⟨x, rfl⟩
    cases x <;> decide
  · rintro ⟨h1, h4⟩
    interval_cases c
    exacts [⟨.score, rfl⟩, ⟨.plane, rfl⟩, ⟨.companion, rfl⟩, ⟨.peerAll, rfl⟩]

theorem num_injective : Function.Injective Path.num := by
  intro p q h
  cases p <;> cases q <;> simp [Path.num] at h <;> rfl

theorem codeOfSource_injective : Function.Injective codeOfSource := by
  intro x y h
  cases x <;> cases y <;> simp [codeOfSource] at h <;> rfl

/-- A list of path numbers names paths, and the paths it names are those with a number in it. -/
theorem pathsOfNums_of_le {l : List Nat} (h : ∀ n ∈ l, n ≤ 3) :
    ∃ ps, pathsOfNums l = some ps ∧ ∀ q : Path, q ∈ ps ↔ q.num ∈ l := by
  obtain ⟨ps, rfl⟩ : l ∈ Set.range (List.map Path.num) := by
    rw [Set.range_list_map]
    exact fun n hn => exists_num_eq.2 (h n hn)
  exact ⟨ps, pathsOfNums_eq_some.2 rfl, fun q => (List.mem_map_of_injective num_injective).symm⟩

/-- A list of known codes names sources, and the sources it names are those with a code in it. -/
theorem sourcesOfCodes_of_known {l : List Nat} (h : ∀ c ∈ l, 1 ≤ c ∧ c ≤ 4) :
    ∃ xs, sourcesOfCodes l = some xs ∧ ∀ x : QuenchSource, x ∈ xs ↔ codeOfSource x ∈ l := by
  obtain ⟨xs, rfl⟩ : l ∈ Set.range (List.map codeOfSource) := by
    rw [Set.range_list_map]
    exact fun c hc => exists_code_eq.2 (h c hc)
  exact ⟨xs, sourcesOfCodes_eq_some.2 rfl, fun x => (List.mem_map_of_injective codeOfSource_injective).symm⟩

/-! ## The value check (R89, Table 4-1) -/

theorem optOnOff_iff (o : Option Nat) : optOnOff o = true ↔ ∀ v ∈ o, v = 0 ∨ v = 1 := by
  rcases o with _ | _ | _ | v <;> simp [optOnOff, onOff]

theorem sourcesOk_iff (o : Option (List Nat)) : sourcesOk o = true ↔ ∀ l ∈ o, ∀ c ∈ l, 1 ≤ c ∧ c ≤ 4 := by
  cases o with
  | none => simp [sourcesOk]
  | some l =>
    simp only [sourcesOk, Option.mem_some_iff, forall_eq', Option.isSome_iff_exists]
    constructor
    · rintro ⟨xs, hx⟩ c hc
      rw [← sourcesOfCodes_eq_some.1 hx, List.mem_map] at hc
      obtain ⟨x, -, hx⟩ := hc
      exact exists_code_eq.1 ⟨x, hx⟩
    · intro h
      obtain ⟨xs, hx, -⟩ := sourcesOfCodes_of_known h
      exact ⟨xs, hx⟩

theorem companionsOk_iff (p : Path) (o : Option (List Nat)) :
    companionsOk p o = true ↔ ∀ l ∈ o, ∀ n ∈ l, n ≤ 3 ∧ n ≠ p.num := by
  cases o with
  | none => simp [companionsOk]
  | some l =>
    simp only [companionsOk, Option.mem_some_iff, forall_eq']
    by_cases hl : ∀ n ∈ l, n ≤ 3
    · obtain ⟨ps, hps, hmem⟩ := pathsOfNums_of_le hl
      simp only [hps, Bool.not_eq_true', List.contains_eq_mem, decide_eq_false_iff_not, hmem]
      exact ⟨fun hp n hn => ⟨hl n hn, fun e => hp (e ▸ hn)⟩, fun h hp => (h _ hp).2 rfl⟩
    · have hnone : pathsOfNums l = none := by
        rw [Option.eq_none_iff_forall_ne_some]
        rintro ps hps
        refine hl fun n hn => ?_
        rw [← pathsOfNums_eq_some.1 hps, List.mem_map] at hn
        obtain ⟨q, -, hq⟩ := hn
        exact exists_num_eq.1 ⟨q, hq⟩
      simp only [hnone, Bool.false_eq_true, false_iff]
      exact fun h => hl fun n hn => (h n hn).1

theorem setPathOk_iff (p : Path) (a : SetPathArgs) :
    setPathOk p a = true ↔
      (∀ v ∈ a.sampleInterval, 100 ≤ v ∧ v ≤ 10000) ∧ (∀ v ∈ a.lineFilter, v = 0 ∨ v = 1) ∧
        (∀ v ∈ a.alarmFilter, v = 0 ∨ v = 1) ∧ (∀ v ∈ a.settleTime, 100 ≤ v ∧ v ≤ 60000) ∧
        (∀ v ∈ a.probeInterval, 10 ≤ v ∧ v ≤ 1000) ∧ (∀ v ∈ a.missLimit, 2 ≤ v ∧ v ≤ 15) ∧
        (∀ l ∈ a.sources, ∀ c ∈ l, 1 ≤ c ∧ c ≤ 4) ∧ (∀ l ∈ a.companions, ∀ n ∈ l, n ≤ 3 ∧ n ≠ p.num) ∧
        ∀ v ∈ a.autoRevive, v = 0 ∨ v = 1 := by
  simp only [setPathOk, Bool.and_eq_true, optInRange_iff, optOnOff_iff, sourcesOk_iff, companionsOk_iff, and_assoc]

/-! ## The values written -/

theorem mem_sourcesOr (old : List QuenchSource) {l : List Nat} (h : ∀ c ∈ l, 1 ≤ c ∧ c ≤ 4) (x : QuenchSource) :
    x ∈ sourcesOr old (some l) ↔ codeOfSource x ∈ l := by
  obtain ⟨xs, hx, hmem⟩ := sourcesOfCodes_of_known h
  have hall : x ∈ QuenchSource.all := by cases x <;> decide
  simp [sourcesOr, hx, hall, hmem]

theorem mem_companionsOr (old : List Path) {l : List Nat} (h : ∀ n ∈ l, n ≤ 3) (q : Path) :
    q ∈ companionsOr old (some l) ↔ q.num ∈ l := by
  obtain ⟨ps, hps, hmem⟩ := pathsOfNums_of_le h
  simp [companionsOr, hps, mem_pathAll, hmem]

/-! ## The request -/

theorem settable_iff (st : PathState) : st.settable = true ↔ ¬ (st ≠ .down ∧ st ≠ .quenched ∧ st ≠ .drained) := by
  cases st <;> simp [PathState.settable]

/-- Settles O26: the checks are taken in the order of `ownSetPath`, and the settings are written by `withSettings`. -/
theorem setPathWritesTheSettings : Obligations.SetPathWritesTheSettings := by
  refine ⟨setPathOk_iff, fun b x y => ⟨rfl, rfl, rfl, rfl, rfl, fun l hl => mem_sourcesOr x hl,
    fun l hl => mem_companionsOr y hl⟩, fun tag n a s hwf hs => ?_⟩
  have hfits : (Request.setPath n a).fits = true := by
    simp only [Instr.wellFormed, Bool.and_eq_true] at hwf
    simp only [Request.fits, Bool.and_eq_true]
    exact ⟨hwf.1.2, hwf.2⟩
  have hown : ∀ t res, ownSetPath n a s.hunting = ⟨t, res, []⟩ → RepliesWith (.setPath tag n a) s tag 14 res [] t :=
    fun _ _ hx => repliesWith_of_own (r := .setPath n a) rfl hfits hs hx
  unfold ownSetPath at hown
  cases hp : Path.ofNum n with
  | none =>
    rw [hp] at hown
    exact hown _ _ rfl
  | some p =>
    rw [hp] at hown
    have hset := settable_iff (s.hunting.path p).state
    simp only
    split
    · rename_i hbusy
      exact hown _ _ (if_pos (by rw [Bool.not_eq_true', Bool.eq_false_iff, Ne, hset]; exact not_not.2 hbusy))
    rename_i hfree
    have h1 : ¬ (!(s.hunting.path p).state.settable) = true := by
      rw [Bool.not_eq_true', hset.2 hfree]
      exact Bool.noConfusion
    split
    · rename_i hbad
      exact hown _ _ ((if_neg h1).trans (if_pos (by simp [hbad])))
    · rename_i hok
      exact hown _ _ ((if_neg h1).trans (if_neg (by simpa using hok)))

end Sys2Proof.Machine
end

section
/-! PROOFS. Samples of the line and alarm pins: the run, its count and its completion. -/

namespace Sys2Proof.Machine

section
variable {s : State} {p : Path} {r : PathRec} {v : Bool} {t : Nat}

/-! ## The line qualifier (R72) -/

theorem lineSampled_eq (hr : s.path p = r) (ht : t = max s.stc.time (r.lineSampled + r.sampleInterval)) :
    lineSampled p v s =
      if v = r.lineUp then (s.atTime t).withPath p { r with lineSampled := t, lineRun := 0, lineRunTime := none }
      else if r.lineRun + 1 < (if r.lineFilter = true then 4 else 1) then
        (s.atTime t).withPath p
          { r with lineSampled := t, lineRun := r.lineRun + 1, lineRunTime := some (r.lineRunTime.getD t) }
      else
        lineQualified p v
          ((s.atTime t).withPath p
            { r with lineSampled := t, lineUp := v, lineTime := r.lineRunTime.getD t, lineRun := 0,
                     lineRunTime := none }) := by
  subst hr ht
  rfl

/-! ## The alarm qualifier (R94, R95) -/

theorem alarmSampled_eq (hr : s.path p = r) (ht : t = max s.stc.time (r.alarmSampled + r.sampleInterval)) :
    alarmSampled p v s =
      if v = r.alarm then (s.atTime t).withPath p { r with alarmSampled := t, alarmRun := 0, alarmRunTime := none }
      else if r.alarmRun + 1 < (if r.alarmFilter = true then 4 else 1) then
        (s.atTime t).withPath p
          { r with alarmSampled := t, alarmRun := r.alarmRun + 1, alarmRunTime := some (r.alarmRunTime.getD t) }
      else
        alarmQualified p v
          ((s.atTime t).withPath p
            { r with alarmSampled := t, alarm := v, alarmTime := r.alarmRunTime.getD t, alarmRun := 0,
                     alarmRunTime := none }) := by
  subst hr ht
  rfl

end

/-- Settles O48: a sample is taken by the count of its run, and a completed alarm run by the value it qualifies. -/
theorem samplesRunTheQualifiers : Obligations.SamplesRunTheQualifiers := by
  intro s p r v t u hs hr ht hu
  have hline : ∀ w, lineSampled p v s = w → Takes (.lineSample p v) s w := fun _ hw => takes_of_event rfl hs hw
  have halarm : ∀ w, alarmSampled p v s = w → Takes (.alarmSample p v) s w := fun _ hw => takes_of_event rfl hs hw
  rw [lineSampled_eq hr ht] at hline
  rw [alarmSampled_eq hr hu] at halarm
  refine ⟨fun hv => hline _ (if_pos hv), fun hv hn => hline _ ((if_neg hv).trans (if_pos hn)),
    fun hv hn => hline _ ((if_neg hv).trans (if_neg (Nat.not_lt.2 hn))), fun hv => halarm _ (if_pos hv),
    fun hv hn => halarm _ ((if_neg hv).trans (if_pos hn)), fun hv hn => ⟨_, rfl, ?_⟩⟩
  have hdone : ∀ w, alarmQualified p v _ = w → Takes (.alarmSample p v) s w := fun w hw =>
    halarm w ((if_neg hv).trans ((if_neg (Nat.not_lt.2 hn)).trans hw))
  refine ⟨fun hv hl hs => hdone _ ?_, fun hv hn => hdone _ ?_, fun hv => hdone _ ?_⟩
  · subst hv
    exact handCondition_fires .plane (by simpa using hl) (by simpa using hs)
  · subst hv
    exact handCondition_idle .plane (by simpa using hn)
  · subst hv
    rfl

end Sys2Proof.Machine
end

section
/-! PROOFS. What shifts, cues and the leaving of service do to the paths that carry conversations: none comes to be CARRYING,
a path that has left service carries none, and no reason is raised of a path. -/

namespace Sys2Proof.Machine

/-! ## The relation that every operation is shown to keep -/

/-- The conversation of a handle is CARRYING on a path. -/
def State.carriesOn (s : State) (q : Path) (h : Nat) : Prop :=
  ∃ c, s.conv h = some c ∧ c.state = .carrying ∧ c.active = some q

/-- In state `t` only conversations that were so in `s` are CARRYING on a path, and the reasons pending of the paths are those
of `s`. -/
structure CarriesNoMore (s t : State) : Prop where
  carries : ∀ q h, t.carriesOn q h → s.carriesOn q h
  reasons : t.ntu.paths = s.ntu.paths

theorem CarriesNoMore.refl (s : State) : CarriesNoMore s s := ⟨fun _ _ => id, rfl⟩

theorem CarriesNoMore.trans {s t u : State} (k : CarriesNoMore s t) (l : CarriesNoMore t u) : CarriesNoMore s u :=
  ⟨fun q h => k.carries q h ∘ l.carries q h, l.reasons.trans k.reasons⟩

section
variable {s t : State} (k : CarriesNoMore s t)
include k

theorem noMore_of_same {u : State} (hc : u.convs = t.convs) (hn : u.ntu.paths = t.ntu.paths) : CarriesNoMore s u :=
  k.trans ⟨fun _ _ ⟨c, hcv, hs⟩ => ⟨c, (State.conv_congr hc _).symm.trans hcv, hs⟩, hn⟩

/-- A record written that is not CARRYING on a path, or was so before. -/
theorem setConv_noMore {h : Nat} {d : Conv} (hd : ∀ q, d.state = .carrying → d.active = some q → t.carriesOn q h) :
    CarriesNoMore s (setConv h d t) := by
  refine k.trans ⟨fun q j ⟨c, hcv, hs, ha⟩ => ?_, rfl⟩
  rw [State.conv_setConv] at hcv
  split at hcv
  · rename_i hj
    cases hcv
    exact hj ▸ hd q hs ha
  · exact ⟨c, hcv, hs, ha⟩

theorem setConv_idle_noMore {h : Nat} {d : Conv} (hd : d.state ≠ .carrying) : CarriesNoMore s (setConv h d t) :=
  setConv_noMore k fun _ hs => absurd hs hd

theorem updConv_noMore {h : Nat} {f : Conv → Conv} (hf : ∀ c, (f c).state ≠ .carrying) :
    CarriesNoMore s (updConv h f t) := by
  unfold updConv
  split
  · exact k
  · exact setConv_idle_noMore k (hf _)

theorem forEach_noMore {α : Type} {l : List α} {f : α → State → State}
    (hf : ∀ a u, CarriesNoMore s u → CarriesNoMore s (f a u)) : CarriesNoMore s (forEach l f t) :=
  forEach_keeps (CarriesNoMore s) f hf l t k

theorem queueOpt_noMore {q : QFrame → State → State} (f : Option QFrame)
    (hq : ∀ f u, CarriesNoMore s u → CarriesNoMore s (q f u)) : CarriesNoMore s (queueOpt q f t) := by
  cases f with
  | none => exact k
  | some f => exact hq f t k

/-! ## The shift queue and slots (7.3 to 7.6) -/

theorem joinQueue_noMore (h : Nat) : CarriesNoMore s (joinQueue h t) := by
  unfold joinQueue
  split
  · exact k
  · rename_i c _
    have ks : CarriesNoMore s (setConv h { c with state := .shiftQueued } t) := setConv_idle_noMore k (by simp)
    exact noMore_of_same ks rfl rfl

theorem park_noMore (h : Nat) : CarriesNoMore s (park h t) := by
  have ku := updConv_noMore k (h := h)
    (f := fun c => { c with state := .parked, active := none, parkStart := some t.now, forced := none }) (by simp)
  exact noMore_of_same ku rfl rfl

theorem chooseCore_noMore (n : Nat) : CarriesNoMore s (chooseCore n t) := by
  unfold chooseCore
  split
  · exact k
  split
  · exact k
  split
  · exact queueOpt_noMore (noMore_of_same k (u := setSlot _ _ t) rfl rfl) _ fun _ _ ku => noMore_of_same ku rfl rfl
  · exact park_noMore (noMore_of_same k (u := freeSlot n t) rfl rfl) _

theorem lapseCore_noMore (h : Nat) (why : LapseReason) : CarriesNoMore s (lapseCore h why t) := by
  unfold lapseCore
  split
  · exact k
  split
  · exact k
  · rename_i c _ _
    have ks : CarriesNoMore s (setConv h (c.lapsedBy why) t) := setConv_idle_noMore k (by simp [Conv.lapsedBy])
    exact noMore_of_same ks rfl rfl

theorem applyStaged_noMore {h : Nat} {c : Conv} (hc : t.conv h = some c) : CarriesNoMore s (applyStaged h c t) := by
  unfold applyStaged
  split
  · exact k
  · rename_i l _
    have ks : CarriesNoMore s (setConv h { c with prefs := l, staged := none } t) :=
      setConv_noMore k fun _ hs ha => ⟨c, hc, hs, ha⟩
    exact noMore_of_same ks rfl rfl

theorem grant_noMore (n h : Nat) : CarriesNoMore s (grant n h t) := by
  unfold grant
  split
  · exact k
  rename_i c hc
  split
  · exact lapseCore_noMore k h _
  · have ku := updConv_noMore (applyStaged_noMore k hc) (h := h)
      (f := fun c => { c with state := .shifting, sendShift := c.sendShift + 1 }) (by simp)
    have kr := noMore_of_same ku (u := raiseConv h .shiftBegun (setSlot n
      { handle := h, phase := .holdOff, newShift := c.sendShift + 1, candidate := none, tried := [],
        attempt := none, void := none, timer := some (t.after c.holdOff) } (updConv h _ (applyStaged h c t)))) rfl rfl
    simp only
    split
    · exact chooseCore_noMore kr n
    · exact kr

omit k in
theorem grants_noMore : ∀ (n : Nat) {t : State}, CarriesNoMore s t → CarriesNoMore s (grants n t)
  | 0, _, k => k
  | n + 1, t, k => by
    unfold grants
    split
    · rename_i e rest _ _ _
      exact grants_noMore n (grant_noMore (noMore_of_same k (u := { t with she := { t.she with queue := rest } }) rfl rfl) _ _)
    · exact k

theorem grantAll_noMore : CarriesNoMore s (grantAll t) := grants_noMore _ k

theorem enterQueue_noMore (h : Nat) : CarriesNoMore s (enterQueue h t) := grantAll_noMore (joinQueue_noMore k h)

theorem choose_noMore (n : Nat) : CarriesNoMore s (choose n t) := grantAll_noMore (chooseCore_noMore k n)

/-! ## Causes and cues (7.1, 7.9) -/

theorem withheld_noMore {h : Nat} {d : Conv} (hd : d.state ≠ .carrying) :
    CarriesNoMore s (raiseConv h .withheld (setConv h d t)) :=
  noMore_of_same (setConv_idle_noMore k (h := h) hd) rfl rfl

theorem shiftCause_noMore (a : Bool) (h : Nat) : CarriesNoMore s (shiftCause a h t) := by
  cases hc : t.conv h with
  | none => unfold shiftCause; rw [hc]; exact k
  | some c =>
    by_cases hs : c.state = .carrying
    · obtain ⟨hconvs, -, hntu⟩ := leftBy_rest t h c
      have kl : CarriesNoMore s (t.leftBy h c) := noMore_of_same k hconvs (congrArg Ntu.paths hntu)
      by_cases ha : a = false ∨ c.hold = none
      · rw [shiftCause_queued hc hs ha]
        have ks : CarriesNoMore s (setConv h { c.offPath with state := .shiftQueued } (t.leftBy h c)) :=
          setConv_idle_noMore kl (by simp)
        exact grantAll_noMore (noMore_of_same ks rfl rfl)
      · obtain ⟨rfl, hh⟩ : a = true ∧ c.hold ≠ none := by simpa using ha
        rw [shiftCause_withheld hc hs hh]
        exact withheld_noMore kl (by simp)
    · rw [shiftCause_other hc hs]
      exact k

theorem cue_noMore (h : Nat) : CarriesNoMore s (cue h t) := by
  unfold cue
  split
  · exact k
  · rename_i c _
    split
    · rename_i hp
      simp only
      split
      · exact withheld_noMore k (by simp)
      · exact enterQueue_noMore (setConv_idle_noMore k (by simp [hp])) h
    · exact k

theorem cueAll_noMore (n : Option Nat) (p : Path) : CarriesNoMore s (cueAll n p t) :=
  forEach_noMore k fun h _ ku => cue_noMore ku h

/-! ## Leaving service (4.6, R81, R137) -/

theorem dropCandidate_noMore (n : Nat) : CarriesNoMore s (dropCandidate n t) := by
  unfold dropCandidate
  split
  · exact k
  split
  · exact k
  · rename_i p _
    exact choose_noMore (noMore_of_same k (u := setSlot n _ (withdrawInquiry _ p t)) rfl rfl) n

theorem dropCandidates_noMore (p : Path) (peer : Option Nat) : CarriesNoMore s (dropCandidates p peer t) :=
  forEach_noMore k fun n u ku => by
    split
    · exact dropCandidate_noMore ku n
    · exact ku

theorem placeAck_noMore (h : Nat) (w : Bool) (own : Option Path) : CarriesNoMore s (placeAck h w own t) := by
  unfold placeAck
  split
  · exact k
  split
  · exact k
  split
  · exact k
  · exact queueOpt_noMore k _ fun _ _ ku => noMore_of_same ku rfl rfl

theorem replaceAck_noMore (f : QFrame) : CarriesNoMore s (replaceAck f t) := by
  unfold replaceAck
  split
  · exact k
  · exact placeAck_noMore k _ _ none

theorem leaveService_noMore (p : Path) (acks : List QFrame) : CarriesNoMore s (leaveService p acks t) :=
  forEach_noMore (dropCandidates_noMore (forEach_noMore k fun h _ ku => shiftCause_noMore ku true h) p none)
    fun f _ ku => replaceAck_noMore ku f

end

/-! ## A path that has left service -/

/-- A shift cause takes its conversation off whatever path it is CARRYING on (R123). -/
theorem shiftCause_carries (a : Bool) (h : Nat) (q : Path) (s : State) : ¬ (shiftCause a h s).carriesOn q h := by
  cases hc : s.conv h with
  | none =>
    have he : shiftCause a h s = s := by unfold shiftCause; rw [hc]
    rw [he]
    rintro ⟨c, hcv, -⟩
    rw [hc] at hcv
    cases hcv
  | some c =>
    by_cases hs : c.state = .carrying
    · by_cases ha : a = false ∨ c.hold = none
      · rw [shiftCause_queued hc hs ha]
        intro hcarries
        obtain ⟨d, hd, hst, -⟩ := (grantAll_noMore (.refl _)).carries q h hcarries
        rw [queued_conv] at hd
        cases hd
        cases hst
      · obtain ⟨rfl, hh⟩ : a = true ∧ c.hold ≠ none := by simpa using ha
        rw [shiftCause_withheld hc hs hh]
        rintro ⟨d, hd, hst, -⟩
        cases (State.conv_withConv_same ..).symm.trans hd
        cases hst
    · rw [shiftCause_other hc hs]
      rintro ⟨d, hd, hst, -⟩
      rw [hc] at hd
      cases hd
      exact hs hst

theorem forEach_shiftCause_carries (q : Path) (h : Nat) (l : List Nat) (s : State) (hm : h ∈ l) :
    ¬ (forEach l (shiftCause true) s).carriesOn q h := by
  induction l generalizing s with
  | nil => cases hm
  | cons a l ih =>
    rcases List.mem_cons.1 hm with rfl | hm
    · have krest := forEach_noMore (l := l) (.refl (shiftCause true h s)) fun j _ ku => shiftCause_noMore ku true j
      exact fun hcarries => shiftCause_carries true h q s (krest.carries q h hcarries)
    · exact ih (shiftCause true a s) hm

/-- No conversation is left CARRYING on a path that has left service (R81). -/
theorem leaveService_carries (p : Path) (acks : List QFrame) (h : Nat) (s : State) :
    ¬ (leaveService p acks s).carriesOn p h := by
  intro hcarries
  have hshifted : (forEach (s.handles.filter (s.activeOn p)) (shiftCause true) s).carriesOn p h :=
    (forEach_noMore (dropCandidates_noMore (.refl _) p none) fun f _ ku => replaceAck_noMore ku f).carries p h hcarries
  obtain ⟨c, hc, -, ha⟩ := (forEach_noMore (.refl s) fun j _ ku => shiftCause_noMore ku true j).carries p h hshifted
  refine forEach_shiftCause_carries p h _ s (List.mem_filter.2 ⟨(mem_handles s h).2 ⟨c, hc⟩, ?_⟩) hshifted
  simp [State.activeOn, hc, ha]

end Sys2Proof.Machine
end

section
/-! PROOFS. Score events: the clamped score, the move between SOUND and SUSPECT, and the SCORE condition. -/

namespace Sys2Proof.Machine

/-! ## The comparisons of R79 -/

theorem ite_both {α : Type} (a b : Prop) [Decidable a] [Decidable b] (x y : α) :
    (if (decide a && decide b) = true then x else y) = if a ∧ b then x else y := by
  by_cases ha : a
  · simp [ha]
  · simp [ha]

/-- The state of a path after a score is written on it in a live state (R79). -/
def PathState.scored (st : PathState) (v : Nat) : PathState :=
  if st = .sound ∧ 128 ≤ v then .suspect else if st = .suspect ∧ v < 96 then .sound else st

theorem scored_live {st : PathState} (h : st.live = true) (v : Nat) : (st.scored v).live = true := by
  unfold PathState.scored
  split
  · rfl
  split
  · rfl
  · exact h

/-- The state that a score written on a path leaves, before the SCORE condition (R79). -/
def State.scored (s : State) (p : Path) (v : Nat) : State :=
  if (s.path p).state = .sound ∧ 128 ≤ v then
    raisePath p .state (s.withPath p { s.path p with score := v, state := .suspect })
  else if (s.path p).state = .suspect ∧ v < 96 then
    cueAll none p (raisePath p .state (s.withPath p { s.path p with score := v, state := .sound }))
  else s.withPath p { s.path p with score := v }

section
variable (s : State) (p : Path) (v : Nat)

theorem applyScore_idle (h : (s.path p).state.live = false) : applyScore p v s = s := by
  simp [applyScore, h]

/-- On a live path the score is written and compared; reaching 255 from below hands the SCORE condition (R79). -/
theorem applyScore_live (h : (s.path p).state.live = true) :
    applyScore p v s =
      if v = 255 ∧ (s.path p).score < 255 then handCondition .score .score p (s.scored p v) else s.scored p v := by
  have hset : ∀ x y, s.withPath p { s.path p with score := x, state := y } =
      updPath p (fun r => { r with state := y }) (updPath p (fun r => { r with score := x }) s) := by
    intro x y
    simp [State.withPath, updPath, State.path, PerPath.set_set]
  unfold applyScore State.scored
  simp only [if_pos h, ite_both, hset v .suspect, hset v .sound]
  rfl

theorem scored_roads :
    (s.scored p v).roads = (s.withPath p { s.path p with score := v, state := (s.path p).state.scored v }).roads := by
  unfold State.scored PathState.scored
  split
  · rfl
  split
  · exact cueAll_roads none p _
  · rfl

theorem scored_path :
    ((s.scored p v).path p).score = v ∧ ((s.scored p v).path p).state = (s.path p).state.scored v ∧
      ((s.scored p v).path p).sources = (s.path p).sources ∧ ((s.scored p v).path p).cause = (s.path p).cause := by
  obtain ⟨hstate, hsources, -, -, hscore, hcause, -⟩ := emptied_fields (State.roads_path (scored_roads s p v) p)
  rw [State.path_withPath_same] at hstate hsources hscore hcause
  exact ⟨hscore, hstate, hsources, hcause⟩

theorem scored_path_other {q : Path} (hq : q ≠ p) :
    ((s.scored p v).path q).score = (s.path q).score ∧ ((s.scored p v).path q).state = (s.path q).state ∧
      ((s.scored p v).path q).cause = (s.path q).cause := by
  obtain ⟨hstate, -, -, -, hscore, hcause, -⟩ := emptied_fields (State.roads_path (scored_roads s p v) q)
  rw [State.path_withPath_other s _ hq] at hstate hscore hcause
  exact ⟨hscore, hstate, hcause⟩

theorem scored_reasons (h : (s.path p).state.scored v ≠ (s.path p).state) : .state ∈ (s.scored p v).ntu.paths.get p := by
  unfold PathState.scored at h
  unfold State.scored
  split
  · exact (mem_reasons_raisePath ..).2 (.inl rfl)
  · rename_i h1
    rw [if_neg h1] at h
    split
    · rw [(cueAll_noMore (.refl _) none p).reasons]
      exact (mem_reasons_raisePath ..).2 (.inl rfl)
    · rename_i h2
      exact absurd (if_neg h2) h

theorem scored_stc : (s.scored p v).stc = s.stc := by
  unfold State.scored
  split
  · rfl
  split
  · exact State.outer_stc (cueAll_outer none p _)
  · rfl

theorem scored_prt : (s.scored p v).prt = s.prt :=
  (State.roads_prt (scored_roads s p v)).trans rfl

/-- The SCORE condition, handed where a score has reached 255 from below, quenches the path if it enables the source. -/
theorem handCondition_scored (h : (s.path p).state.live = true) :
    (.score ∈ (s.path p).sources → handCondition .score .score p (s.scored p v) = quenchPath p .score (s.scored p v)) ∧
      (.score ∉ (s.path p).sources → handCondition .score .score p (s.scored p v) = s.scored p v) := by
  obtain ⟨-, hstate, hsources, -⟩ := scored_path s p v
  exact ⟨fun hs => handCondition_fires .score (hstate ▸ scored_live h v) (hsources.symm ▸ hs),
    fun hs => handCondition_idle .score (.inr (hsources.symm ▸ hs))⟩

end

/-- Settles O56: both score events go by `applyScore`, whose result is `State.scored` with the SCORE condition. -/
theorem aScoreEventIsClampedAndCompared : Obligations.AScoreEventIsClampedAndCompared := by
  refine ⟨fun s p n => ⟨fun hl => ⟨applyScore_idle s p _ hl, applyScore_idle s p _ hl⟩, fun v u hu hl hv => ?_⟩,
    fun s p n v r u w hr hl hu hw => ?_⟩
  · have happly : u = applyScore p v s := by
      rcases hu with ⟨rfl, rfl⟩ | ⟨rfl, rfl⟩
      · rw [addScore, Nat.min_eq_right (by simp only [Config.maxScore]; omega)]
      · rfl
    have huv : u = s.scored p v := by
      rw [happly, applyScore_live s p v hl, if_neg (by omega)]
    obtain ⟨hscore, hstate, -, hcause⟩ := scored_path s p v
    rw [huv]
    refine ⟨hscore, hstate, fun hne => scored_reasons s p v (hstate ▸ hne), fun q => ?_, scored_stc s p v, scored_prt s p v⟩
    by_cases hq : q = p
    · subst hq
      exact ⟨hcause, fun h => absurd rfl h⟩
    · obtain ⟨hscore', hstate', hcause'⟩ := scored_path_other s p v hq
      exact ⟨hcause', fun _ => ⟨hscore', hstate'⟩⟩
  · subst hr
    have happly : u = applyScore p v s := by
      rcases hu with ⟨rfl, rfl⟩ | ⟨rfl, rfl⟩ <;> rfl
    have hscored : w = s.scored p v := hw
    have hhand := handCondition_scored s p v hl
    rw [happly, applyScore_live s p v hl, hscored]
    refine ⟨fun hv hlt hs => (if_pos ⟨hv, hlt⟩).trans (hhand.1 hs), fun hn => ?_⟩
    split
    · rename_i hreach
      exact hhand.2 (by rcases hn with h | h | h <;> [exact absurd hreach.1 h; omega; exact h])
    · rfl

end Sys2Proof.Machine
end

section
/-! PROOFS. Reception: the address of a port, the sender of a frame, the port's checks in their order, and a frame that names
no sender. -/

namespace Sys2Proof.Machine

/-! ## Addresses and senders (R53, R116, R151) -/

theorem portAddr_eq (n : Nat) :
    portAddr .p0 n = 0x0A0000000000#48 + BitVec.ofNat 48 n ∧ portAddr .p1 n = 0x0A0000010000#48 + BitVec.ofNat 48 n ∧
      portAddr .p2 n = 0x0A0000020000#48 + BitVec.ofNat 48 n ∧ portAddr .p3 n = 0x0A0000030000#48 + BitVec.ofNat 48 n := by
  simp only [portAddr, Path.num, BitVec.ofNat_add]
  exact ⟨rfl, rfl, rfl, rfl⟩

theorem linkOn_eq (s : State) (p : Path) (k : Nat) (e : Peer) (he : s.peer k = some e) :
    s.linkOn k p = (e.links.get p).link := by
  simp [State.linkOn, he]

/-- A slot sends for a node on a path if its entry is present, of that node, and has a link address there. -/
theorem sends_iff (s : State) (p : Path) (n k : Nat) :
    (decide ((s.peer k).map Peer.node = some n) && s.hasLink p k) = true ↔
      ∃ e a, s.peer k = some e ∧ e.node = n ∧ (e.links.get p).link = some a := by
  cases he : s.peer k with
  | none => simp
  | some e => simp [hasLink_eq s p k e he, Option.isSome_iff_exists]

theorem senderOn_none {s : State} {p : Path} {n : Nat} :
    s.senderOn p n = none ↔ ∀ k e, s.peer k = some e → e.node = n → (e.links.get p).link = none := by
  unfold State.senderOn
  simp only [List.find?_eq_none, sends_iff, mem_peerSlots]
  constructor
  · intro h k e he hn
    rw [Option.eq_none_iff_forall_ne_some]
    exact fun a ha => h k ⟨e, he⟩ ⟨e, a, he, hn, ha⟩
  · rintro h k - ⟨e, a, he, hn, ha⟩
    rw [h k e he hn] at ha
    cases ha

theorem senderOn_some {s : State} {p : Path} {n k : Nat} (h : s.senderOn p n = some k) :
    ∃ e a, s.peer k = some e ∧ e.node = n ∧ (e.links.get p).link = some a :=
  (sends_iff s p n k).1
    (List.find?_some (p := fun k => decide ((s.peer k).map Peer.node = some n) && s.hasLink p k) h)

/-! ## What a path does with a frame (R84) -/

section
variable {s : State} {p : Path} {f : RxFrame}

theorem takeFrame_barred (h : (s.path p).state = .down ∨ (s.path p).state = .drained) : takeFrame p f s = s := by
  unfold takeFrame
  rcases h with h | h <;> rw [h]

theorem takeFrame_quenched (h : (s.path p).state = .quenched) : takeFrame p f s = takeQuenched p f s := by
  unfold takeFrame
  rw [h]

theorem takeFrame_live (h : (s.path p).state.live = true) : takeFrame p f s = takeLive p f s := by
  unfold takeFrame
  rcases (live_iff _).1 h with h | h | h <;> rw [h]

/-- A frame without a sender is neither heard nor taken at a table; on a live path an ANSWER is credited (R53, R84). -/
theorem takeLive_unsent (hn : s.senderOn p f.srcNode = none) : takeLive p f s = answerCredit p f s := by
  unfold takeLive
  rw [hn]
  cases hb : f.body <;> simp [hear, echo, frameCue, takeAtTable, answerCredit, hb]

theorem takeQuenched_unsent (hn : s.senderOn p f.srcNode = none) : takeQuenched p f s = s := by
  unfold takeQuenched
  rw [hn]
  cases f.body <;> rfl

theorem answerCredit_answer (h : ∃ o v d, f.body = .answer o v d) : answerCredit p f s = lowerScore p s := by
  obtain ⟨o, v, d, hb⟩ := h
  simp [answerCredit, hb]

theorem answerCredit_other (h : ∀ o v d, f.body ≠ .answer o v d) : answerCredit p f s = s := by
  unfold answerCredit
  split
  · rename_i o v d hb
    exact absurd hb (h o v d)
  · rfl

/-- Without a sender only an ANSWER on a live path leaves a trace. -/
theorem takeFrame_unsent (hn : s.senderOn p f.srcNode = none)
    (h : (∀ o v d, f.body ≠ .answer o v d) ∨ (s.path p).state.live = false) : takeFrame p f s = s := by
  cases hst : (s.path p).state with
  | down => exact takeFrame_barred (.inl hst)
  | drained => exact takeFrame_barred (.inr hst)
  | quenched => rw [takeFrame_quenched hst, takeQuenched_unsent hn]
  | proving | sound | suspect =>
    have hl : (s.path p).state.live = true := by rw [hst]; rfl
    rw [takeFrame_live hl, takeLive_unsent hn, answerCredit_other (h.resolve_right (by simp [hl]))]

end

/-! ## The port's checks (R83, R151, R154) -/

section
variable {s : State} {p : Path} {hd : RxHead} {b : RxBody}

theorem receive_elsewhere (h : hd.etherDst ≠ portAddr p s.stc.nodeId) : receive p hd b s = s := if_neg h

theorem receive_otherType (h : s.stc.frameType = 0 ∨ hd.etherType ≠ s.stc.frameType) : receive p hd b s = s := by
  unfold receive checkAndTake
  rw [if_pos (show (decide (s.stc.frameType = 0) || decide (hd.etherType ≠ s.stc.frameType)) = true by simpa using h)]
  exact ite_self s

/-- A frame that passes the filter and the type check goes by its format and its destination (R83, R154). -/
theorem receive_ownType (hdst : hd.etherDst = portAddr p s.stc.nodeId) (h0 : s.stc.frameType ≠ 0)
    (ht : hd.etherType = s.stc.frameType) :
    receive p hd b s =
      match formatCheck hd b with
      | none => addScore p 4 s
      | some f => if s.stc.nodeId = 0 ∨ hd.dstNode ≠ s.stc.nodeId then s else takeFrame p f s := by
  have hown : ¬ (decide (s.stc.frameType = 0) || decide (hd.etherType ≠ s.stc.frameType)) = true := by simp [h0, ht]
  unfold receive checkAndTake
  rw [if_pos hdst, if_neg hown]
  cases formatCheck hd b <;> simp

theorem receive_unaddressed (hf : formatCheck hd b ≠ none) (hn : s.stc.nodeId = 0 ∨ hd.dstNode ≠ s.stc.nodeId)
    (hdst : hd.etherDst = portAddr p s.stc.nodeId) (h0 : s.stc.frameType ≠ 0) (ht : hd.etherType = s.stc.frameType) :
    receive p hd b s = s := by
  obtain ⟨f, hf⟩ := Option.ne_none_iff_exists'.1 hf
  rw [receive_ownType hdst h0 ht, hf]
  exact if_pos hn

theorem receive_barred (hf : formatCheck hd b ≠ none) (hst : (s.path p).state = .down ∨ (s.path p).state = .drained)
    (hdst : hd.etherDst = portAddr p s.stc.nodeId) (h0 : s.stc.frameType ≠ 0) (ht : hd.etherType = s.stc.frameType) :
    receive p hd b s = s := by
  obtain ⟨f, hf⟩ := Option.ne_none_iff_exists'.1 hf
  rw [receive_ownType hdst h0 ht, hf]
  exact (congrArg _ (takeFrame_barred hst)).trans (ite_self s)

/-! ## A frame given by its octets (R83, R154) -/

variable {l : List Byte}

theorem receiveOctets_elsewhere (h : etherDstOfOctets l ≠ portAddr p s.stc.nodeId) : receiveOctets p l s = s := if_pos h

theorem receiveOctets_corrupt (h : etherDstOfOctets l = portAddr p s.stc.nodeId) (hf : fcsOk l = false) :
    receiveOctets p l s = addScore p 4 s := by
  simp [receiveOctets, h, hf]

theorem receiveOctets_malformed (h : etherDstOfOctets l = portAddr p s.stc.nodeId) (hf : fcsOk l = true)
    (h0 : s.stc.frameType ≠ 0) (ht : typeOfOctets l = s.stc.frameType) (hn : fieldsOfOctets l = none) :
    receiveOctets p l s = addScore p 4 s := by
  simp [receiveOctets, h, hf, h0, ht, hn]

end

/-- Settles O34: the checks of `receive` and `receiveOctets` in their order, and the frames that no entry sends. -/
theorem receptionChecksDecideInTheirOrder : Obligations.ReceptionChecksDecideInTheirOrder := by
  refine ⟨fun n _ => portAddr_eq n, fun s p n => ⟨senderOn_none, fun k => senderOn_some⟩, fun s p hd b f hP hf hn => ?_,
    fun p hd b s => ⟨receive_elsewhere, receive_otherType, fun hdst h0 ht => ⟨fun hf => ?_,
      fun hf hn => receive_unaddressed hf hn hdst h0 ht, fun hf hst => receive_barred hf hst hdst h0 ht⟩⟩,
    fun p l s hs => ⟨fun h hf => takes_of_event rfl hs (receiveOctets_corrupt h hf), fun h hf h0 ht hn =>
      takes_of_event rfl hs (receiveOctets_malformed h hf h0 ht hn), fun h =>
      takes_of_event rfl hs (receiveOctets_elsewhere h)⟩⟩
  · rw [← formatCheck_srcNode hf] at hn
    refine ⟨fun ha hl => arrival_takes hP hf ?_, fun h => arrival_takes hP hf (takeFrame_unsent hn h)⟩
    rw [takeFrame_live hl, takeLive_unsent hn, answerCredit_answer ha]
  · rw [receive_ownType hdst h0 ht, hf]

end Sys2Proof.Machine
end

section
/-! PROOFS. Hearing a frame, and the ECHO that a PROBE draws, on a live and on a QUENCHED path. -/

namespace Sys2Proof.Machine

/-! ## Hearing (R116, R118) -/

section
variable {s : State} {p : Path} {k : Nat} {e : Peer} {a : LinkAddr}

/-- On a path that is not QUENCHED hearing writes the entry, and raises REACHABILITY where the peer was not REACHABLE. -/
theorem hearPeer_unquenched (hst : (s.path p).state ≠ .quenched) (he : s.peer k = some e)
    (ha : (e.links.get p).link = some a) :
    ∃ u, u = { s with prt := { s.prt with
        peers := KMap.set s.prt.peers k
          { e with
            links := e.links.set p
              { link := some a, reach := .reachable, miss := 0, heard := true, lastHeard := some s.stc.time } } } } ∧
      ((e.links.get p).reach = .reachable → hearPeer k p s = u) ∧
      ((e.links.get p).reach ≠ .reachable → hearPeer k p s = raisePeer k .reachability u) := by
  obtain ⟨h1, h2, -⟩ := hearPeer_cases he ha rfl
  exact ⟨_, rfl, h1, fun h => h2 h hst⟩

theorem hearPeer_paths (hst : (s.path p).state ≠ .quenched) (he : s.peer k = some e) (ha : (e.links.get p).link = some a) :
    (hearPeer k p s).paths = s.paths := by
  obtain ⟨u, rfl, h1, h2⟩ := hearPeer_unquenched hst he ha
  by_cases hr : (e.links.get p).reach = .reachable
  · rw [h1 hr]
  · rw [h2 hr]
    rfl

/-! ## Echoing (R120) -/

theorem hears_iff (st : PathState) : st.hears = true ↔ st ≠ .down ∧ st ≠ .drained := by cases st <;> decide

/-- A PROBE of a peer that is addressed as its entry was draws an ECHO while its path hears. -/
theorem echo_hearPeer (he : s.peer k = some e) (ha : (e.links.get p).link = some a)
    (hh : ((hearPeer k p s).path p).state.hears = true) :
    echo p (some k) (hearPeer k p s) =
      (hearPeer k p s).withPath p (((hearPeer k p s).path p).withAnswer (answerTo e a none none 0 .echo none)) := by
  obtain ⟨e', he', hnode, ha'⟩ := addresses_entry (hearPeer_addresses k p s) he ha
  rw [← answerTo_congr hnode, ← answerFrame_eq_withAnswer he' ha']
  exact if_pos hh

theorem echo_deaf {u : State} (h : (u.path p).state = .down ∨ (u.path p).state = .drained) : echo p (some k) u = u := by
  refine if_neg fun hh => ?_
  obtain ⟨h1, h2⟩ := (hears_iff _).1 hh
  exact h.elim h1 h2

/-! ## The frames of the peer table (R84) -/

theorem takeQuenched_heard {f : RxFrame} (hk : s.senderOn p f.srcNode = some k) (hb : f.body ≠ .probe) :
    takeQuenched p f s = hearPeer k p s := by
  unfold takeQuenched
  rw [hk]
  simp only
  rfl

theorem takeQuenched_probe {f : RxFrame} (hk : s.senderOn p f.srcNode = some k) (hb : f.body = .probe) :
    takeQuenched p f s = echo p (some k) (hearPeer k p s) := by
  unfold takeQuenched
  rw [hk, hb]
  rfl

theorem takeLive_probe {f : RxFrame} (hk : s.senderOn p f.srcNode = some k) (hb : f.body = .probe) :
    takeLive p f s = cueAll (some k) p (echo p (some k) (hearPeer k p s)) := by
  unfold takeLive
  rw [hk, hb]
  rfl

theorem takeLive_echo {f : RxFrame} (hk : s.senderOn p f.srcNode = some k) (hb : f.body = .echo) :
    takeLive p f s = cueAll (some k) p (hearPeer k p s) := by
  unfold takeLive
  rw [hk, hb]
  rfl

/-- A frame without handles of a kind of the peer table reaches it on a live path. -/
theorem Reaches.takesFrame_bare {hd : RxHead} (hR : Reaches s p hd k) (h1 : hd.srcHandle = 0xFFFF) (h2 : hd.dstHandle = 0xFFFF)
    {b : RxBody} {body : FrameBody} (hb : b.check = some body) (hs : srcHandlePresent body = false)
    (hd' : dstHandlePresent body = false) {t : State}
    (ht : takeLive p { srcNode := hd.srcNode, srcHandle := none, dstHandle := none, shift := hd.shift, body := body } s =
      cueAll (some k) p t) : TakesFrame (arrival p hd b) s p k t := by
  obtain ⟨hP, hl, -⟩ := hR
  have hf := hP.formatCheck (src := none) (dst := none) hb (by rw [h1, handleOfField_absent]) (by rw [h2, handleOfField_absent]) hs.symm hd'.symm
  exact arrival_takes hP hf ((takeFrame_live hl).trans ht)

end

/-- Settles O36: hearing goes by `hearPeer_cases`, and an ECHO by whether the path still hears. -/
theorem hearingAFrameAndEchoingAProbe : Obligations.HearingAFrameAndEchoingAProbe := by
  refine ⟨fun s u p k e a he ha hu => hearPeer_cases he ha hu, fun s u p hd b f k e a hP hst hk hf he ha hu => ?_,
    fun s p k e a hl he ha => ?_, fun s p hd k e a hR h1 h2 he ha => ?_⟩
  · rw [← formatCheck_srcNode hf] at hk
    subst hu
    have htake : ∀ t, takeQuenched p f s = t → Takes (arrival p hd b) s t := fun t ht =>
      arrival_takes hP hf ((takeFrame_quenched hst).trans ht)
    refine ⟨fun hb => htake _ (takeQuenched_heard hk hb), fun hb => ⟨fun hd1 hd2 => ?_, fun hdeaf => ?_⟩⟩
    · exact htake _ ((takeQuenched_probe hk hb).trans (echo_hearPeer he ha ((hears_iff _).2 ⟨hd1, hd2⟩)))
    · exact htake _ ((takeQuenched_probe hk hb).trans (echo_deaf hdeaf))
  · have hst : (s.path p).state ≠ .quenched := fun h => by rw [h] at hl; cases hl
    obtain ⟨u, rfl, hr1, hr2⟩ := hearPeer_unquenched hst he ha
    by_cases hr : (e.links.get p).reach = .reachable
    · rw [hr1 hr]
      exact ⟨rfl, fun _ => rfl, fun hn => absurd hr hn⟩
    · rw [hr2 hr]
      exact ⟨rfl, fun h => absurd h hr, fun _ => by simp [reasonsAt, mem_insertIn_reason]⟩
  · have hk := hR.2.2
    have hst : (s.path p).state ≠ .quenched := fun h => by have hl := hR.2.1; rw [h] at hl; cases hl
    have hhears : ((hearPeer k p s).path p).state.hears = true := by
      rw [State.path_congr (hearPeer_paths hst he ha), PathState.hears, hR.2.1]
      rfl
    refine ⟨hR.takesFrame_bare h1 h2 (b := .echo) (body := .echo) rfl rfl rfl (takeLive_echo hk rfl),
      hR.takesFrame_bare h1 h2 (b := .probe) (body := .probe) rfl rfl rfl ?_⟩
    rw [takeLive_probe hk rfl, echo_hearPeer he ha hhears]
    rfl

end Sys2Proof.Machine
end

section
/-! PROOFS. Probe rounds that begin: heard in round becomes no everywhere, and one PROBE is queued for each node. -/

namespace Sys2Proof.Machine

/-! ## Entries that are written one after the other -/

/-- The entry with its fields on a path changed. -/
def Peer.onPath (e : Peer) (p : Path) (f : PeerLink → PeerLink) : Peer := { e with links := e.links.set p (f (e.links.get p)) }

theorem onPath_get (e : Peer) (p q : Path) (f : PeerLink → PeerLink) :
    (e.onPath p f).links.get q = if q = p then f (e.links.get p) else e.links.get q := PerPath.get_set ..

theorem onPath_onPath (e : Peer) (p : Path) (f g : PeerLink → PeerLink) : (e.onPath p f).onPath p g = e.onPath p (g ∘ f) := by
  simp [Peer.onPath, PerPath.set_set]

/-- Reading the peer table after one entry has been changed on a path. -/
theorem updLink_peer (k j : Nat) (p : Path) (f : PeerLink → PeerLink) (s : State) :
    (updLink k p f s).peer j = if j = k then (s.peer k).map (·.onPath p f) else s.peer j := by
  cases he : s.peer k with
  | none =>
    have hs : updLink k p f s = s := by simp [updLink, updPeer, he]
    rw [hs]
    split
    · rename_i h
      rw [h, he]
      rfl
    · rfl
  | some e =>
    rw [updLink_eq k p f s e he]
    refine (KMap.get?_set _ _ _ _).trans ?_
    by_cases hj : j = k
    · simp [hj, Peer.onPath]
    · simp only [hj, Ne.symm hj, if_false]
      rfl

theorem updLink_only (k : Nat) (p : Path) (f : PeerLink → PeerLink) (s : State) :
    ∃ t, updLink k p f s = { s with prt := { s.prt with peers := t } } := by
  unfold updLink updPeer
  split
  · exact ⟨_, rfl⟩
  · exact ⟨_, rfl⟩

theorem updLink_wf {s : State} (h : s.prt.peers.wf = true) (k : Nat) (p : Path) (f : PeerLink → PeerLink) :
    (updLink k p f s).prt.peers.wf = true := by
  unfold updLink updPeer
  split
  · exact h
  · exact KMap.wf_set h _ _

/-- Writing the entries of several slots with a change that is the same when repeated. -/
theorem forEach_updLink (p : Path) (f : PeerLink → PeerLink) (hf : f ∘ f = f) (l : List Nat) (s : State) :
    ∃ t, forEach l (fun k u => updLink k p f u) s = { s with prt := { s.prt with peers := t } } ∧
      ∀ k, KMap.get? t k = if k ∈ l then (s.peer k).map (·.onPath p f) else s.peer k := by
  induction l generalizing s with
  | nil => exact ⟨s.prt.peers, rfl, fun k => (if_neg (by simp)).symm⟩
  | cons a l ih =>
    obtain ⟨m, hm⟩ := updLink_only a p f s
    obtain ⟨t, ht, hget⟩ := ih (updLink a p f s)
    refine ⟨t, ht.trans (by rw [hm]), fun k => ?_⟩
    rw [hget, updLink_peer]
    by_cases hk : k = a
    · subst hk
      simp only [if_true, List.mem_cons, true_or]
      split
      · cases s.peer k <;> simp [onPath_onPath, hf]
      · rfl
    · simp [hk]

/-! ## PROBE frames (R86, R114) -/

/-- The PROBE to the peer of a slot on a path, if it has a link address there (R109). -/
def State.probeTo (s : State) (p : Path) (k : Nat) : Option QFrame :=
  (s.peer k).bind fun e => (e.links.get p).link.map fun a => answerTo e a none none 0 .probe none

theorem probeTo_eq (s : State) (p : Path) (k : Nat) : s.frameTo k p none none 0 .probe none = s.probeTo p k := by
  unfold State.frameTo State.probeTo
  cases s.peer k <;> rfl

theorem probeTo_some {s : State} {p : Path} {k : Nat} {f : QFrame} : s.probeTo p k = some f ↔
    ∃ e a, s.peer k = some e ∧ (e.links.get p).link = some a ∧ f = answerTo e a none none 0 .probe none := by
  simp [State.probeTo, Option.bind_eq_some_iff, eq_comm (a := f)]

/-- A PROBE joins class 3 unless one for its node stands there (R86). -/
theorem queue3_eq (p : Path) (f : QFrame) (s : State) :
    queue3 p f s = s.withPath p { s.path p with
      class3 := (s.path p).class3 ++ if ∃ g ∈ (s.path p).class3, g.dstNode = f.dstNode then [] else [f] } := by
  unfold queue3 State.withPath updPath
  by_cases h : ∃ g ∈ (s.path p).class3, g.dstNode = f.dstNode
  · simp [h]
  · simp [h]

/-- The PROBE frames `probes` that queueing for several slots has put behind class 3 of a path: for the slots `slots` among
them, in order, one for each node that had none there. -/
structure Probed (s : State) (p : Path) (l : List Nat) (probes : List QFrame) (slots : List Nat) : Prop where
  order : slots.Sublist l
  frames : probes.map some = slots.map (s.probeTo p)
  new : ∀ f ∈ probes, ∀ g ∈ (s.path p).class3, g.dstNode ≠ f.dstNode
  once : (probes.map QFrame.dstNode).Nodup
  all : ∀ k ∈ l, ∀ f, s.probeTo p k = some f → ∃ g ∈ (s.path p).class3 ++ probes, g.dstNode = f.dstNode

theorem forEach_queueProbe (p : Path) (l : List Nat) (s : State) :
    ∃ probes slots, forEach l (queueProbe p) s =
      s.withPath p { s.path p with class3 := (s.path p).class3 ++ probes } ∧ Probed s p l probes slots := by
  induction l generalizing s with
  | nil =>
    refine ⟨[], [], ?_, ⟨.slnil, rfl, by simp, List.nodup_nil, by simp⟩⟩
    rw [List.append_nil]
    exact (s.withPath_self p).symm
  | cons a l ih =>
    obtain ⟨probes, slots, hs, hP⟩ := ih (queueProbe p a s)
    have hcons : forEach (a :: l) (queueProbe p) s = forEach l (queueProbe p) (queueProbe p a s) := rfl
    cases hf : s.probeTo p a with
    | none =>
      have hq : queueProbe p a s = s := by
        unfold queueProbe
        rw [probeTo_eq, hf]
        rfl
      rw [hq] at hs hP
      refine ⟨probes, slots, by rw [hcons, hq, hs], ⟨hP.order.cons a, hP.frames, hP.new, hP.once, fun k hk => ?_⟩⟩
      rcases List.mem_cons.1 hk with rfl | hk
      · simp [hf]
      · exact hP.all k hk
    | some f =>
      have hq : queueProbe p a s = queue3 p f s := by
        unfold queueProbe
        rw [probeTo_eq, hf]
        rfl
      rw [hq, queue3_eq] at hs hP
      rw [hcons, hq, queue3_eq, hs, State.withPath_withPath]
      obtain ⟨horder, hframes, hnew, honce, hall⟩ := hP
      simp only [State.path_withPath_same] at hnew hall ⊢
      have hprobe : ∀ r, (s.withPath p r).probeTo p = s.probeTo p := fun _ => rfl
      rw [hprobe] at hframes hall
      by_cases hg : ∃ g ∈ (s.path p).class3, g.dstNode = f.dstNode
      · simp only [if_pos hg, List.append_nil] at hnew hall ⊢
        refine ⟨probes, slots, rfl, ⟨horder.cons a, hframes, hnew, honce, fun k hk f' hf' => ?_⟩⟩
        rcases List.mem_cons.1 hk with rfl | hk
        · obtain ⟨g, hg, hn⟩ := hg
          cases hf.symm.trans hf'
          exact ⟨g, List.mem_append_left _ hg, hn⟩
        · exact hall k hk f' hf'
      · simp only [if_neg hg, List.append_assoc] at hnew hall ⊢
        have hfirst : ∀ g ∈ probes, f.dstNode ≠ g.dstNode := fun g h => hnew g h f (by simp)
        refine ⟨[f] ++ probes, a :: slots, rfl, ⟨horder.cons_cons a, by simp [hf, hframes], fun g hm x hx => ?_, ?_,
          fun k hk f' hf' => ?_⟩⟩
        · rcases List.mem_cons.1 hm with rfl | hm
          · exact fun e => hg ⟨x, hx, e⟩
          · exact hnew g hm x (List.mem_append_left _ hx)
        · simp only [List.singleton_append, List.map_cons, List.nodup_cons, List.mem_map, not_exists, not_and]
          exact ⟨fun g hm e => hfirst g hm e.symm, honce⟩
        · rcases List.mem_cons.1 hk with rfl | hk
          · cases hf.symm.trans hf'
            exact ⟨f, by simp, rfl⟩
          · exact hall k hk f' hf'

/-! ## A round that begins (R114) -/

/-- The fields of a peer that was not heard yet in a round. -/
def PeerLink.unheard (l : PeerLink) : PeerLink := { l with heard := false }

theorem beginRound_spec (s : State) (p : Path) : ∃ (probes : List QFrame) (t : KMap Peer),
    beginRound p s =
      { s.withPath p { s.path p with class3 := (s.path p).class3 ++ probes } with
        prt := { peers := t, rounds := s.prt.rounds.set p (some (s.stc.time + (s.path p).probeInterval * 1000)) } } ∧
    (∀ k, KMap.get? t k = (s.peer k).map (·.onPath p PeerLink.unheard)) ∧
    ∃ l slots, Probed s p l probes slots ∧ (∀ k, k ∈ l ↔ ∃ f, s.probeTo p k = some f) ∧
      (s.prt.peers.wf = true → l.Pairwise (· < ·)) := by
  obtain ⟨t, hs1, hget⟩ := forEach_updLink p PeerLink.unheard rfl s.peerSlots s
  have hall : ∀ k, KMap.get? t k = (s.peer k).map (·.onPath p PeerLink.unheard) := by
    intro k
    rw [hget k]
    split
    · rfl
    · rename_i hk
      rw [mem_peerSlots] at hk
      cases he : s.peer k with
      | none => rfl
      | some e => exact absurd ⟨e, he⟩ hk
  obtain ⟨s1, hdef⟩ : ∃ s1, s1 = ({ s with prt := { s.prt with peers := t } } : State) := ⟨_, rfl⟩
  have hpeer : ∀ k, s1.peer k = (s.peer k).map (·.onPath p PeerLink.unheard) := fun k => by rw [hdef]; exact hall k
  have hprobe : s1.probeTo p = s.probeTo p := by
    funext k
    unfold State.probeTo
    rw [hpeer k]
    cases s.peer k with
    | none => rfl
    | some e =>
      have hlink : ((e.onPath p PeerLink.unheard).links.get p).link = (e.links.get p).link := by
        rw [onPath_get, if_pos rfl]
        rfl
      simp only [Option.map_some, Option.bind_some, hlink]
      rfl
  have hpath : s1.path p = s.path p := by rw [hdef]; rfl
  obtain ⟨probes, slots, hs2, hP⟩ := forEach_queueProbe p (s1.peerSlots.filter (s1.hasLink p)) s1
  refine ⟨probes, t, ?_, hall, s1.peerSlots.filter (s1.hasLink p), slots, ?_, fun k => ?_, fun hwf => ?_⟩
  · have hbegin : beginRound p s = setRound p (some ((forEach (s1.peerSlots.filter (s1.hasLink p)) (queueProbe p) s1).after
        ((forEach (s1.peerSlots.filter (s1.hasLink p)) (queueProbe p) s1).path p).probeInterval))
          (forEach (s1.peerSlots.filter (s1.hasLink p)) (queueProbe p) s1) := by
      rw [hdef, ← hs1]
      rfl
    rw [hbegin, hs2, hpath, State.path_withPath_same, hdef]
    rfl
  · obtain ⟨horder, hframes, hnew, honce, hcover⟩ := hP
    rw [hprobe] at hframes hcover
    rw [hpath] at hnew hcover
    exact ⟨horder, hframes, hnew, honce, hcover⟩
  · rw [← hprobe, List.mem_filter, mem_peerSlots]
    simp only [probeTo_some]
    constructor
    · rintro ⟨⟨e, he⟩, hl⟩
      rw [hasLink_eq s1 p k e he, Option.isSome_iff_exists] at hl
      obtain ⟨a, ha⟩ := hl
      exact ⟨_, e, a, he, ha, rfl⟩
    · rintro ⟨f, e, a, he, ha, -⟩
      exact ⟨⟨e, he⟩, by rw [hasLink_eq s1 p k e he, ha]; rfl⟩
  · have hwf1 : s1.prt.peers.wf = true := by
      rw [hdef, ← hs1]
      exact forEach_keeps (fun u => u.prt.peers.wf = true) _ (fun k _ h => updLink_wf h k p _) _ s hwf
    exact List.Pairwise.filter _ (of_decide_eq_true hwf1)

end Sys2Proof.Machine
end

section
/-! PROOFS. Probe rounds that close, and the expiries of the settle timer and of the round timer. -/

namespace Sys2Proof.Machine

/-! ## The miss limit and the probe interval of a path -/

/-- The miss limit and the probe interval of each path, which only SET PATH and a cold restart change. -/
def State.limits (s : State) (q : Path) : Nat × Nat := ((s.path q).missLimit, (s.path q).probeInterval)

theorem limits_roads {s t : State} (h : t.roads = s.roads) : t.limits = s.limits := by
  funext q
  have hq := State.roads_path h q
  exact Prod.ext (by have := congrArg PathRec.missLimit hq; exact this) (by have := congrArg PathRec.probeInterval hq; exact this)

theorem limits_updPath (p : Path) (f : PathRec → PathRec) (s : State)
    (hf : ((f (s.path p)).missLimit, (f (s.path p)).probeInterval) = s.limits p) : (updPath p f s).limits = s.limits := by
  funext q
  unfold State.limits
  rw [State.path_updPath]
  split
  · rename_i h
    rw [h]
    exact hf
  · rfl

theorem quenchOne_limits (p : Path) (why : Cause) (s : State) : (quenchOne p why s).limits = s.limits := by
  unfold quenchOne
  have hupd := limits_updPath p
    (fun r => { r with state := .quenched, cause := some why, settleTimer := none, class2 := [], class4 := [] }) s rfl
  refine (limits_roads (raisePath_roads p _ _)).trans ?_
  split
  · exact (limits_roads (leaveService_roads p _ _)).trans hupd
  · exact hupd

theorem enterQuench_limits : ∀ (n : Nat) (p : Path) (why : Cause) (s : State), (enterQuench n p why s).limits = s.limits
  | 0, _, _, _ => rfl
  | n + 1, p, why, s => by
    rw [enterQuench_succ]
    refine forEach_keeps (fun t : State => t.limits = s.limits) _ (fun q t ht => ?_) _ _ (quenchOne_limits p why s)
    split
    · exact (enterQuench_limits n q .companion t).trans ht
    · exact ht

theorem quenchPath_limits (p : Path) (why : Cause) (s : State) : (quenchPath p why s).limits = s.limits :=
  enterQuench_limits 4 p why s

theorem scored_limits (s : State) (p : Path) (v : Nat) : (s.scored p v).limits = s.limits :=
  (limits_roads (scored_roads s p v)).trans (limits_updPath p _ s rfl)

theorem addScore_limits (p : Path) (n : Nat) (s : State) : (addScore p n s).limits = s.limits := by
  unfold addScore
  cases hl : (s.path p).state.live with
  | false => rw [applyScore_idle s p _ hl]
  | true =>
    rw [applyScore_live s p _ hl]
    split
    · unfold handCondition
      split
      · exact (quenchPath_limits p _ _).trans (scored_limits s p _)
      · exact scored_limits s p _
    · exact scored_limits s p _

/-! ## One miss (R115, R117) -/

theorem PeerAllTested.kept {p : Path} {among : Nat → Prop} {s u : State} (h : PeerAllTested p among s u) :
    u.prt = s.prt ∧ u.limits = s.limits := by
  by_cases hq : PeerAllOver s p among ∧ (s.path p).state.live = true ∧ .peerAll ∈ (s.path p).sources
  · rw [h.1 hq.1 hq.2.1 hq.2.2]
    exact ⟨quenchPath_prt .., quenchPath_limits ..⟩
  · rw [h.2 (by rw [not_and_or, not_and_or, Bool.not_eq_true] at hq; exact hq)]
    exact ⟨rfl, rfl⟩

/-- The fields of a peer after one miss against a limit (R115). -/
def PeerLink.missed (limit : Nat) (l : PeerLink) : PeerLink :=
  { l with miss := min 15 (l.miss + 1), reach := if limit ≤ min 15 (l.miss + 1) then .unreachable else l.reach }

/-- A miss writes the entry, whatever the shifts and the quench that follow do (R115, R117). -/
theorem missRound_kept {s : State} {p : Path} {k : Nat} {e : Peer} (he : s.peer k = some e) :
    (missRound p k s).prt =
        { s.prt with peers := KMap.set s.prt.peers k (e.onPath p (PeerLink.missed (s.path p).missLimit)) } ∧
      (missRound p k s).limits = s.limits := by
  obtain ⟨hcount, hreach⟩ := missRound_cases (p := p) he rfl
  by_cases hc : (e.links.get p).reach = .unreachable ∨ min 15 ((e.links.get p).miss + 1) < (s.path p).missLimit
  · rw [hcount hc]
    have hsame : PeerLink.missed (s.path p).missLimit (e.links.get p) =
        { e.links.get p with miss := min 15 ((e.links.get p).miss + 1) } := by
      unfold PeerLink.missed
      split
      · rename_i hle
        rw [← hc.resolve_right (Nat.not_lt.2 hle)]
      · rfl
    rw [Peer.onPath, hsame]
    exact ⟨rfl, rfl⟩
  · obtain ⟨hr, hle⟩ := not_or.1 hc
    obtain ⟨u, v, hu, htest, hv⟩ := hreach hr (Nat.not_lt.1 hle)
    have hroads : (dropCandidates p (some k) ((s.handles.filter fun h =>
          (s.conv h).any fun c => decide (c.active = some p) && decide (c.peer = k)).foldl
        (fun t h => shiftCause true h t) u)).roads = u.roads :=
      (dropCandidates_roads ..).trans (forEach_roads _ (shiftCause true) u (shiftCause_roads true))
    obtain ⟨hprt, hlim⟩ := htest.kept
    rw [hv]
    refine ⟨hprt.trans ((State.roads_prt hroads).trans ?_), hlim.trans ((limits_roads hroads).trans ?_)⟩
    · rw [hu, Peer.onPath, PeerLink.missed, if_pos (Nat.not_lt.1 hle)]
    · rw [hu]
      rfl

/-- Misses of several slots, each once. -/
theorem forEach_missRound (p : Path) (l : List Nat) (hl : l.Nodup) (s : State) (hm : ∀ k ∈ l, ∃ e, s.peer k = some e) :
    (forEach l (missRound p) s).prt.rounds = s.prt.rounds ∧ (forEach l (missRound p) s).limits = s.limits ∧
      ∀ k, (forEach l (missRound p) s).peer k =
        if k ∈ l then (s.peer k).map (·.onPath p (PeerLink.missed (s.path p).missLimit)) else s.peer k := by
  induction l generalizing s with
  | nil => exact ⟨rfl, rfl, fun k => (if_neg (by simp)).symm⟩
  | cons a l ih =>
    obtain ⟨hnew, hl⟩ := List.nodup_cons.1 hl
    obtain ⟨e, he⟩ := hm a (by simp)
    obtain ⟨hprt, hlim⟩ := missRound_kept (p := p) he
    have hpeer : ∀ k, (missRound p a s).peer k =
        if a = k then some (e.onPath p (PeerLink.missed (s.path p).missLimit)) else s.peer k := fun k => by
      unfold State.peer
      rw [hprt]
      exact KMap.get?_set ..
    have hmiss : ((missRound p a s).path p).missLimit = (s.path p).missLimit := congrArg Prod.fst (congrFun hlim p)
    obtain ⟨hr, hlim', hget⟩ := ih hl (missRound p a s) fun k hk => by
      rw [hpeer, if_neg (fun h : a = k => hnew (h ▸ hk))]
      exact hm k (by simp [hk])
    refine ⟨hr.trans (by rw [hprt]), hlim'.trans hlim, fun k => (hget k).trans ?_⟩
    rw [hmiss, hpeer]
    by_cases hk : a = k
    · subst hk
      simp [hnew, he]
    · simp [hk, Ne.symm hk]

/-! ## A round that closes (R115) -/

/-- The slots that miss at the close of a round: those with a link address that were not heard. -/
def State.missing (s : State) (p : Path) : List Nat := (s.peerSlots.filter (s.hasLink p)).filter fun k => !s.heardOn p k

theorem heardOn_eq (s : State) (p : Path) (k : Nat) (e : Peer) (he : s.peer k = some e) :
    s.heardOn p k = (e.links.get p).heard := by
  simp [State.heardOn, he]

theorem mem_linked {s : State} {p : Path} {k : Nat} :
    k ∈ s.peerSlots.filter (s.hasLink p) ↔ ∃ e, s.peer k = some e ∧ (e.links.get p).link ≠ none := by
  rw [List.mem_filter, mem_peerSlots]
  constructor
  · rintro ⟨⟨e, he⟩, hl⟩
    exact ⟨e, he, Option.isSome_iff_ne_none.1 (hasLink_eq s p k e he ▸ hl)⟩
  · rintro ⟨e, he, hl⟩
    exact ⟨⟨e, he⟩, hasLink_eq s p k e he ▸ Option.isSome_iff_ne_none.2 hl⟩

theorem mem_missing {s : State} {p : Path} {k : Nat} :
    k ∈ s.missing p ↔ ∃ e, s.peer k = some e ∧ (e.links.get p).link ≠ none ∧ (e.links.get p).heard = false := by
  unfold State.missing
  rw [List.mem_filter, mem_linked]
  constructor
  · rintro ⟨⟨e, he, hl⟩, hh⟩
    exact ⟨e, he, hl, by simpa [heardOn_eq s p k e he] using hh⟩
  · rintro ⟨e, he, hl, hh⟩
    exact ⟨⟨e, he, hl⟩, by simp [heardOn_eq s p k e he, hh]⟩

theorem missing_pairwise {s : State} (h : s.prt.peers.wf = true) (p : Path) : (s.missing p).Pairwise (· < ·) :=
  ((of_decide_eq_true h : s.peerSlots.Pairwise (· < ·)).filter _).filter _

/-- A round was silent on a path: some entry has a link address there and none of them was heard (R115). -/
def State.silent (s : State) (p : Path) : Prop :=
  (∃ k e, s.peer k = some e ∧ (e.links.get p).link ≠ none) ∧
    ∀ k e, s.peer k = some e → (e.links.get p).link ≠ none → (e.links.get p).heard = false

theorem silent_iff (s : State) (p : Path) :
    (decide (s.peerSlots.filter (s.hasLink p) ≠ []) &&
      (s.peerSlots.filter (s.hasLink p)).all fun k => !s.heardOn p k) = true ↔ s.silent p := by
  have hall : (∀ k ∈ s.peerSlots.filter (s.hasLink p), (!s.heardOn p k) = true) ↔
      ∀ k e, s.peer k = some e → (e.links.get p).link ≠ none → (e.links.get p).heard = false := by
    constructor
    · intro h k e he hl
      simpa [heardOn_eq s p k e he] using h k (mem_linked.2 ⟨e, he, hl⟩)
    · intro h k hk
      obtain ⟨e, he, hl⟩ := mem_linked.1 hk
      simp [heardOn_eq s p k e he, h k e he hl]
  rw [Bool.and_eq_true, decide_eq_true_eq, List.all_eq_true, hall, Ne, List.eq_nil_iff_forall_not_mem, not_forall]
  simp only [not_not, mem_linked]
  rfl

theorem closeRound_silent {s : State} {p : Path} (h : s.silent p) :
    closeRound p s = addScore p 8 (forEach (s.missing p) (missRound p) s) := if_pos ((silent_iff s p).2 h)

theorem closeRound_heard {s : State} {p : Path} (h : ¬ s.silent p) :
    closeRound p s = forEach (s.missing p) (missRound p) s := if_neg (mt (silent_iff s p).1 h)

/-- The close of a round leaves the entries that missed, the round timers and the limits (R115). -/
theorem closeRound_kept {s : State} (p : Path) (h : s.prt.peers.wf = true) :
    (closeRound p s).prt.rounds = s.prt.rounds ∧ (closeRound p s).limits = s.limits ∧
      ∀ k, (closeRound p s).peer k =
        if k ∈ s.missing p then (s.peer k).map (·.onPath p (PeerLink.missed (s.path p).missLimit)) else s.peer k := by
  have hmiss := forEach_missRound p (s.missing p) ((missing_pairwise h p).imp fun hlt => Nat.ne_of_lt hlt) s fun k hk => by
    obtain ⟨e, he, -⟩ := mem_missing.1 hk
    exact ⟨e, he⟩
  by_cases hs : s.silent p
  · rw [closeRound_silent hs, addScore_prt, addScore_limits]
    simp only [State.peer_congr (addScore_prt p 8 _)]
    exact hmiss
  · rw [closeRound_heard hs]
    exact hmiss

/-! ## The expiry of the round timer (R114, R115) -/

/-- The fields of a peer on a path after a whole round (R114, R115). -/
def PeerLink.afterRound (limit : Nat) (l : PeerLink) : PeerLink :=
  if l.link = none ∨ l.heard = true then l.unheard else (l.missed limit).unheard

theorem afterRound_same {limit : Nat} {l : PeerLink} (h : l.link = none ∨ l.heard = true) : l.afterRound limit = l.unheard :=
  if_pos h

theorem afterRound_missed {limit : Nat} {l : PeerLink} (h : ¬ (l.link = none ∨ l.heard = true)) :
    l.afterRound limit = (l.missed limit).unheard := if_neg h

theorem round_entry {s : State} {p : Path} {k : Nat} {e : Peer} (hwf : s.prt.peers.wf = true) (he : s.peer k = some e) :
    (beginRound p (closeRound p s)).peer k = some (e.onPath p (PeerLink.afterRound (s.path p).missLimit)) := by
  obtain ⟨-, -, hclose⟩ := closeRound_kept p hwf
  obtain ⟨probes, t, hbegin, hget, -⟩ := beginRound_spec (closeRound p s) p
  have hpeer : (beginRound p (closeRound p s)).peer k = KMap.get? t k := by rw [hbegin]; rfl
  have hmem : k ∈ s.missing p ↔ ¬ ((e.links.get p).link = none ∨ (e.links.get p).heard = true) := by
    simp [mem_missing, he]
  rw [hpeer, hget, hclose, he]
  by_cases hc : (e.links.get p).link = none ∨ (e.links.get p).heard = true
  · rw [if_neg (fun h => hmem.1 h hc)]
    simp [Peer.onPath, afterRound_same hc]
  · rw [if_pos (hmem.2 hc)]
    simp [Peer.onPath, PerPath.set_set, afterRound_missed hc]

theorem round_timer {s : State} (p : Path) (hwf : s.prt.peers.wf = true) :
    (beginRound p (closeRound p s)).prt.rounds.get p = some (s.stc.time + (s.path p).probeInterval * 1000) := by
  obtain ⟨-, hlim, -⟩ := closeRound_kept p hwf
  obtain ⟨probes, t, hbegin, -⟩ := beginRound_spec (closeRound p s) p
  have hinterval : ((closeRound p s).path p).probeInterval = (s.path p).probeInterval := congrArg Prod.snd (congrFun hlim p)
  have hstc : (closeRound p s).stc = s.stc := State.outer_stc (closeRound_outer p s)
  rw [hbegin, hinterval, hstc]
  exact PerPath.get_set_same ..

theorem probeRoundEnds_running {s : State} {p : Path} {x : Nat} (hx : s.prt.rounds.get p = some x) :
    probeRoundEnds p s = beginRound p (closeRound p (s.atTime x)) := by
  unfold probeRoundEnds
  rw [hx]
  rfl

theorem probeRoundEnds_stopped {s : State} {p : Path} (hx : s.prt.rounds.get p = none) : probeRoundEnds p s = s := by
  unfold probeRoundEnds
  rw [hx]

/-! ## The expiry of the settle timer (R76) -/

theorem anyReachable_iff (s : State) (p : Path) :
    s.anyReachable p = true ↔ ∃ k e, s.peer k = some e ∧ (e.links.get p).reach = .reachable := by
  unfold State.anyReachable
  simp only [List.any_eq_true, mem_peerSlots, decide_eq_true_eq]
  constructor
  · rintro ⟨k, ⟨e, he⟩, hr⟩
    exact ⟨k, e, he, reachOn_eq s p k e he ▸ hr⟩
  · rintro ⟨k, e, he, hr⟩
    exact ⟨k, ⟨e, he⟩, reachOn_eq s p k e he ▸ hr⟩

theorem settleEnds_stopped {s : State} {p : Path} (hx : (s.path p).settleTimer = none) : settleEnds p s = s := by
  unfold settleEnds
  rw [hx]

theorem settleEnds_running {s : State} {p : Path} {x : Nat} (hx : (s.path p).settleTimer = some x) :
    settleEnds p s =
      if (s.atTime x).anyReachable p = true then
        cueAll none p (raisePath p .state
          ((s.atTime x).withPath p { s.path p with state := .sound, score := 0, settleTimer := none }))
      else
        (s.atTime x).withPath p
          { s.path p with settleTimer := some (max s.stc.time x + (s.path p).settleTime * 1000) } := by
  unfold settleEnds
  rw [hx]
  rfl

/-- Settles O50: the settle timer by its two answers, and a round as its close, miss by miss, and the beginning of the next. -/
theorem pathTimersSettleAndProbe : Obligations.PathTimersSettleAndProbe := by
  refine ⟨fun s p hs => ⟨fun x hx => ⟨fun hr => ?_, fun hr => ?_⟩, fun hx => takes_of_event rfl hs (settleEnds_stopped hx),
    fun x hx hwf => ?_, fun x hx => takes_of_event rfl hs (probeRoundEnds_running hx),
    fun hx => takes_of_event rfl hs (probeRoundEnds_stopped hx)⟩,
    fun s p => ⟨s.missing p, _, fun k => mem_missing, fun hT => missing_pairwise hT.2 p, rfl,
      fun hsome hnone => closeRound_silent ⟨hsome, hnone⟩, fun hn => closeRound_heard ?_⟩,
    fun s p k m e he hm => missRound_cases he hm, fun s p => ?_⟩
  · exact takes_of_event rfl hs ((settleEnds_running hx).trans (if_pos ((anyReachable_iff _ p).2 hr)))
  · refine takes_of_event rfl hs ((settleEnds_running hx).trans (if_neg ?_))
    rw [anyReachable_iff]
    rintro ⟨k, e, he, hreach⟩
    exact hr k e he hreach
  · refine ⟨_, takes_of_event rfl hs (probeRoundEnds_running hx),
      congrArg Stc.time (State.outer_stc ((beginRound_outer ..).trans (closeRound_outer ..))),
      round_timer (s := s.atTime x) p hwf, fun k e he => ⟨_, round_entry (s := s.atTime x) hwf he, rfl, ?_⟩⟩
    rw [onPath_get, if_pos rfl]
    refine ⟨?_, ?_, fun q hq => (onPath_get ..).trans (if_neg hq), ?_⟩
    · unfold PeerLink.afterRound
      split <;> rfl
    · unfold PeerLink.afterRound
      split <;> rfl
    · split
      · rename_i hc
        rw [afterRound_same hc]
        exact ⟨rfl, rfl⟩
      · rename_i hc
        rw [afterRound_missed hc]
        exact ⟨rfl, rfl⟩
  · rintro ⟨⟨k, e, he, hl⟩, hsilent⟩
    rcases hn with hn | ⟨j, d, hd, hl, hh⟩
    · exact hl (hn k e he)
    · rw [hsilent j d hd hl] at hh
      cases hh
  · obtain ⟨probes, t, hbegin, hget, l, slots, ⟨horder, hframes, hnew, honce, hcover⟩, hl, hwf⟩ := beginRound_spec s p
    refine ⟨probes, t, hbegin, fun k hk => by rw [hget, hk]; rfl, fun k e he => by rw [hget, he]; rfl, fun f hf => ?_, honce,
      fun k e a he ha => ?_, fun h => ⟨slots, (hwf h).sublist horder, hframes⟩⟩
    · have hm : some f ∈ slots.map (s.probeTo p) := hframes ▸ List.mem_map_of_mem hf
      obtain ⟨k, -, hk⟩ := List.mem_map.1 hm
      obtain ⟨e, a, he, ha, hfe⟩ := probeTo_some.1 hk
      exact ⟨k, e, a, he, ha, hfe, hnew f hf⟩
    · have hk : s.probeTo p k = some (answerTo e a none none 0 .probe none) := probeTo_some.2 ⟨e, a, he, ha, rfl⟩
      exact hcover k ((hl k).2 ⟨_, hk⟩) _ hk

end Sys2Proof.Machine
end

section
/-! PROOFS. The qualified line transitions: a DOWN path that comes UP, and a live path that goes DOWN. -/

namespace Sys2Proof.Machine

/-! ## The beginning of rounds on one path -/

theorem beginRound_path (s : State) (p : Path) :
    (beginRound p s).path p = { s.path p with class3 := ((beginRound p s).path p).class3 } := by
  obtain ⟨probes, t, h, -⟩ := beginRound_spec s p
  have hp : (beginRound p s).path p = { s.path p with class3 := (s.path p).class3 ++ probes } := by
    rw [h]
    exact PerPath.get_set_same ..
  rw [hp]

theorem beginRound_rest (s : State) (p : Path) :
    (∀ q, q ≠ p → (beginRound p s).path q = s.path q) ∧ (beginRound p s).convs = s.convs ∧ (beginRound p s).stc = s.stc ∧
      (beginRound p s).ntu = s.ntu ∧
      (beginRound p s).prt.rounds.get p = some (s.stc.time + (s.path p).probeInterval * 1000) := by
  obtain ⟨probes, t, h, -⟩ := beginRound_spec s p
  rw [h]
  exact ⟨fun q hq => PerPath.get_set_other _ _ hq, rfl, rfl, rfl, PerPath.get_set_same ..⟩

/-! ## UP on a DOWN path (R73, R99) -/

section
variable {s : State} {p : Path}

/-- The state in which a DOWN path that comes UP takes the check at its entry into PROVING (R73). -/
def State.comeUp (s : State) (p : Path) : State :=
  raisePath p .state (beginRound p ((raisePath p .line s).withPath p
    { s.path p with state := .proving, settleTimer := some (s.stc.time + (s.path p).settleTime * 1000) }))

theorem comeUp_path :
    (s.comeUp p).path p =
      { s.path p with
        state := .proving, settleTimer := some (s.stc.time + (s.path p).settleTime * 1000),
        class3 := ((s.comeUp p).path p).class3 } := by
  have h := beginRound_path ((raisePath p .line s).withPath p
    { s.path p with state := .proving, settleTimer := some (s.stc.time + (s.path p).settleTime * 1000) }) p
  rw [State.path_withPath_same] at h
  exact h

theorem comeUp_path_other {q : Path} (hq : q ≠ p) : (s.comeUp p).path q = s.path q :=
  ((beginRound_rest _ p).1 q hq).trans (State.path_withPath_other _ _ hq)

theorem lineQualified_up (h : (s.path p).state = .down) : lineQualified p true s = provingCheck p (s.comeUp p) := if_pos h

/-- The check at entry into PROVING, for an enabled ACTIVE alarm, or else for an enabled QUENCHED companion (R99). -/
theorem provingCheck_cases (t : State) :
    (.plane ∈ (t.path p).sources → (t.path p).alarm = true → provingCheck p t = quenchPath p .plane t) ∧
      (.plane ∉ (t.path p).sources ∨ (t.path p).alarm = false →
        (.companion ∈ (t.path p).sources → (∃ q ∈ (t.path p).companions, (t.path q).state = .quenched) →
          provingCheck p t = quenchPath p .companion t) ∧
        (.companion ∉ (t.path p).sources ∨ (∀ q ∈ (t.path p).companions, (t.path q).state ≠ .quenched) →
          provingCheck p t = t)) := by
  have hplane : ((t.path p).sources.contains .plane && (t.path p).alarm) = true ↔
      .plane ∈ (t.path p).sources ∧ (t.path p).alarm = true := by simp
  have hcompanion : ((t.path p).sources.contains .companion && t.companionQuenched p) = true ↔
      .companion ∈ (t.path p).sources ∧ ∃ q ∈ (t.path p).companions, (t.path q).state = .quenched := by
    simp [State.companionQuenched]
  refine ⟨fun h1 h2 => if_pos (hplane.2 ⟨h1, h2⟩), fun hn => ?_⟩
  have hno : ¬ ((t.path p).sources.contains .plane && (t.path p).alarm) = true := by
    rw [hplane]
    rintro ⟨h1, h2⟩
    rcases hn with h | h
    · exact h h1
    · rw [h2] at h
      cases h
  refine ⟨fun h1 h2 => (if_neg hno).trans (if_pos (hcompanion.2 ⟨h1, h2⟩)), fun h => (if_neg hno).trans (if_neg ?_)⟩
  rw [hcompanion]
  rintro ⟨h1, q, hq, h2⟩
  rcases h with h | h
  · exact h h1
  · exact h q hq h2

/-- The same, read in the state before the path came UP: the path itself is PROVING and no QUENCHED companion. -/
theorem lineQualified_up_cases (hdown : (s.path p).state = .down) :
    (.plane ∈ (s.path p).sources → (s.path p).alarm = true → lineQualified p true s = quenchPath p .plane (s.comeUp p)) ∧
      (.plane ∉ (s.path p).sources ∨ (s.path p).alarm = false →
        (.companion ∈ (s.path p).sources → (∃ q ∈ (s.path p).companions, q ≠ p ∧ (s.path q).state = .quenched) →
          lineQualified p true s = quenchPath p .companion (s.comeUp p)) ∧
        (.companion ∉ (s.path p).sources ∨ (∀ q ∈ (s.path p).companions, q ≠ p → (s.path q).state ≠ .quenched) →
          lineQualified p true s = s.comeUp p)) := by
  have hpath := comeUp_path (s := s) (p := p)
  have hsources : ((s.comeUp p).path p).sources = (s.path p).sources := by rw [hpath]
  have halarm : ((s.comeUp p).path p).alarm = (s.path p).alarm := by rw [hpath]
  have hcompanions : ((s.comeUp p).path p).companions = (s.path p).companions := by rw [hpath]
  have hquenched : ∀ q, ((s.comeUp p).path q).state = .quenched ↔ q ≠ p ∧ (s.path q).state = .quenched := by
    intro q
    by_cases hq : q = p
    · subst hq
      rw [hpath]
      simp
    · rw [comeUp_path_other hq]
      simp [hq]
  have h := provingCheck_cases (p := p) (s.comeUp p)
  rw [← lineQualified_up hdown, hsources, halarm, hcompanions] at h
  simpa only [hquenched, Ne, not_and] using h

/-! ## DOWN on a live path (R74, R81, R82) -/

/-- The state of a path that goes DOWN with its rounds stopped, before it leaves service (R74). -/
def State.goDown (s : State) (p : Path) : State :=
  stopRounds p ((raisePath p .line s).withPath p
    { (s.path p).emptied with state := .down, score := 0, settleTimer := none })

theorem goDown_stopped (s : State) (p : Path) :
    RoundsStopped p ((raisePath p .line s).withPath p
      { (s.path p).emptied with state := .down, score := 0, settleTimer := none }) (s.goDown p) := stopRounds_spec p _

theorem lineQualified_down_proving (h : (s.path p).state = .proving) :
    lineQualified p false s = raisePath p .falseRevival (raisePath p .state (s.goDown p)) := by
  unfold lineQualified lineDown
  simp only [State.path_raisePath, h]
  rfl

theorem lineQualified_down_service (h : (s.path p).state.inService = true) :
    lineQualified p false s = raisePath p .state (leaveService p (s.path p).class4 (s.goDown p)) := by
  have hl : (s.path p).state.live = true := by
    rcases (inService_iff _).1 h with h | h <;> rw [h] <;> rfl
  have hn : (s.path p).state ≠ .proving := fun e => by rw [e] at h; cases h
  unfold lineQualified lineDown
  simp only [State.path_raisePath, hl, h, hn, if_true, if_false]
  rfl

/-- What RoundsStopped leaves of a path and of the blocks beside it. -/
theorem RoundsStopped.rest {s u : State} {p : Path} (h : RoundsStopped p s u) :
    u.path p = { s.path p with class3 := [] } ∧ u.prt.rounds.get p = none ∧ u.convs = s.convs ∧
      u.ntu.paths = s.ntu.paths := by
  obtain ⟨⟨n, t, hu⟩, hr, -⟩ := h
  refine ⟨?_, ?_, ?_, ?_⟩
  · rw [hu]
    exact PerPath.get_set_same ..
  · rw [hr]
    exact PerPath.get_set_same ..
  · rw [hu]
  · rw [hu]

theorem goDown_path : ((s.goDown p).path p).state = .down ∧ ((s.goDown p).path p).score = 0 ∧
    ((s.goDown p).path p).settleTimer = none := by
  rw [(goDown_stopped s p).rest.1, State.path_withPath_same]
  exact ⟨rfl, rfl, rfl⟩

theorem goDown_rest : (s.goDown p).prt.rounds.get p = none ∧ (s.goDown p).convs = s.convs ∧
    .line ∈ (s.goDown p).ntu.paths.get p := by
  obtain ⟨-, hrounds, hconvs, hntu⟩ := (goDown_stopped s p).rest
  refine ⟨hrounds, hconvs, ?_⟩
  rw [hntu]
  exact (mem_reasons_raisePath p .line .line s).2 (.inl rfl)

theorem goDown_peer {k : Nat} {e : Peer} (he : s.peer k = some e) :
    ∃ f, (s.goDown p).peer k = some f ∧ f.node = e.node ∧ (f.links.get p).reach = .unknown ∧ (f.links.get p).miss = 0 ∧
      (f.links.get p).heard = false ∧ (f.links.get p).lastHeard = (e.links.get p).lastHeard := by
  obtain ⟨-, -, hpeer⟩ := goDown_stopped s p
  refine ⟨_, ((hpeer k).2 e he).1, rfl, ?_⟩
  rw [PerPath.get_set_same]
  exact ⟨rfl, rfl, rfl, rfl⟩

/-- What holds of a live path that has gone DOWN (R74, R81, R82). -/
structure GoneDown (s t : State) (p : Path) : Prop where
  path : (t.path p).state = .down ∧ (t.path p).score = 0 ∧ (t.path p).settleTimer = none
  prt : t.prt = (s.goDown p).prt
  carries : ∀ h, t.carriesOn p h → (s.path p).state = .proving
  reasons : .line ∈ t.ntu.paths.get p ∧ .state ∈ t.ntu.paths.get p
  proving : (s.path p).state = .proving → .falseRevival ∈ t.ntu.paths.get p ∧ t.convs = s.convs

theorem goneDown (h : (s.path p).state.live = true) : GoneDown s (lineQualified p false s) p := by
  obtain ⟨-, hconvs, hline⟩ := goDown_rest (s := s) (p := p)
  rcases (live_iff _).1 h with h | h
  · rw [lineQualified_down_proving h]
    exact ⟨goDown_path, rfl, fun _ _ => h, ⟨(mem_reasons_raisePath ..).2 (.inr ((mem_reasons_raisePath ..).2 (.inr hline))),
      (mem_reasons_raisePath ..).2 (.inr ((mem_reasons_raisePath ..).2 (.inl rfl)))⟩,
      fun _ => ⟨(mem_reasons_raisePath ..).2 (.inl rfl), hconvs⟩⟩
  · have hs := (inService_iff _).2 h
    have hroads := leaveService_roads p (s.path p).class4 (s.goDown p)
    have hk := leaveService_noMore (.refl (s.goDown p)) p (s.path p).class4
    have hpath : ((leaveService p (s.path p).class4 (s.goDown p)).path p).emptied = ((s.goDown p).path p).emptied :=
      State.roads_path hroads p
    rw [lineQualified_down_service hs]
    refine ⟨?_, State.roads_prt hroads, fun j hj => absurd hj (leaveService_carries p _ j _),
      ⟨(mem_reasons_raisePath ..).2 (.inr (hk.reasons ▸ hline)), (mem_reasons_raisePath ..).2 (.inl rfl)⟩, fun hp => ?_⟩
    · obtain ⟨hstate, hscore, htimer⟩ := goDown_path (s := s) (p := p)
      exact ⟨(congrArg PathRec.state hpath).trans hstate, (congrArg PathRec.score hpath).trans hscore,
        (congrArg PathRec.settleTimer hpath).trans htimer⟩
    · rw [hp] at hs
      cases hs

end

/-- A qualified line DOWN of a path that is not live only raises LINE. -/
theorem lineQualified_down_idle {s : State} {p : Path} (h : (s.path p).state.live = false) :
    lineQualified p false s = raisePath p .line s := if_neg (Bool.eq_false_iff.1 h)

/-- Settles O49: UP on a DOWN path is `State.comeUp` followed by the check at the entry into PROVING, and DOWN on a live path is
`State.goDown` followed, from service, by the sweep over its conversations, which leaves none CARRYING there. -/
theorem aQualifiedLineTransitionMovesThePath : Obligations.AQualifiedLineTransitionMovesThePath := by
  unfold Obligations.AQualifiedLineTransitionMovesThePath
  refine ⟨?_, ?_, ?_⟩
  · rintro s w p r rfl hdown rfl
    obtain ⟨halarm, hidle⟩ := lineQualified_up_cases hdown
    exact ⟨halarm, fun h => (hidle h).1, fun h => (hidle h).2⟩
  · rintro s p r rfl -
    exact ⟨s.goDown p, goDown_stopped s p, lineQualified_down_proving, lineQualified_down_service⟩
  · rintro s p r rfl
    refine ⟨fun hdown halarm hcompanion => ?_, fun hlive => ?_, fun h => if_neg h, lineQualified_down_idle⟩
    · obtain ⟨-, hconvs, hstc, hntu, hround⟩ := beginRound_rest ((raisePath p .line s).withPath p
        { s.path p with state := .proving, settleTimer := some (s.stc.time + (s.path p).settleTime * 1000) }) p
      have hpath := comeUp_path (s := s) (p := p)
      have hline : Reason.line ∈ ((raisePath p .line s).ntu.paths.get p) := (mem_reasons_raisePath ..).2 (.inl rfl)
      refine ⟨s.comeUp p, (((lineQualified_up_cases hdown).2 halarm.symm).2 hcompanion).symm, ?_, ?_, ?_, ?_,
        fun q => comeUp_path_other, hconvs, hstc, (mem_reasons_raisePath ..).2 (.inr (hntu ▸ hline)),
        (mem_reasons_raisePath ..).2 (.inl rfl)⟩
      · rw [hpath]
      · rw [hpath]
      · rw [hpath]
      · rw [State.path_withPath_same] at hround
        exact hround
    · obtain ⟨⟨hstate, hscore, htimer⟩, hprt, hcarries, ⟨hline, hreason⟩, hproving⟩ := goneDown hlive
      refine ⟨_, rfl, hstate, hscore, htimer, hprt ▸ goDown_rest.1, fun k e he => ?_, fun h c hc hcs => ?_, hline, hreason,
        hproving⟩
      · have hpeer : (lineQualified p false s).peer k = (s.goDown p).peer k := congrArg (fun b => b.peers.get? k) hprt
        rw [hpeer]
        exact goDown_peer he
      · by_cases hactive : c.active = some p
        · exact .inr (hcarries h ⟨c, hc, hcs, hactive⟩)
        · exact .inl hactive

end Sys2Proof.Machine
end

section
/-! PROOFS. QUENCH, REVIVE and DRAIN: their guards, the quench chain down the dependents, the drain and the revival with the
release events they give. -/

namespace Sys2Proof.Machine

/-! ## Operations for each member that agree -/

/-- Two operations that agree on the states of a set one of them keeps agree for each member. -/
theorem forEach_congr_of {α σ : Type} (P : σ → Prop) {f g : α → σ → σ} (hfg : ∀ a t, P t → f a t = g a t)
    (hg : ∀ a t, P t → P (g a t)) (l : List α) {t : σ} (h : P t) : forEach l f t = forEach l g t := by
  induction l generalizing t with
  | nil => rfl
  | cons a l ih =>
    show forEach l f (f a t) = forEach l g (g a t)
    rw [hfg a t h]
    exact ih (hg a t h)

/-- An operation that does nothing for any member does nothing. -/
theorem forEach_idle {α σ : Type} {f : α → σ → σ} {l : List α} {s : σ} (h : ∀ a ∈ l, f a s = s) :
    forEach l f s = s := by
  induction l with
  | nil => rfl
  | cons a l ih =>
    show forEach l f (f a s) = s
    rw [h a List.mem_cons_self]
    exact ih fun b hb => h b (List.mem_cons_of_mem a hb)

theorem dependents_eq (s : State) (p : Path) :
    s.dependents p = Path.all.filter fun q => decide (p ∈ (s.path q).companions) := by
  simp [State.dependents]

/-! ## The causes (R103, R106) -/

theorem testPassed_iff (s : State) (p : Path) :
    s.testPassed p = true ↔
      ¬ (.plane ∈ (s.path p).sources ∧ (s.path p).alarm = true) ∧
      ¬ (.companion ∈ (s.path p).sources ∧ ∃ q ∈ (s.path p).companions, (s.path q).state = .quenched) ∧
      ¬ (.score ∈ (s.path p).sources ∧ (s.path p).score = 255) := by
  simp only [State.testPassed, State.companionQuenched, Bool.and_eq_true, Bool.not_eq_true', ← Bool.not_eq_true,
    List.contains_iff_mem, List.any_eq_true, decide_eq_true_eq, and_assoc]
  rfl

theorem causeEnded_iff (s : State) (p : Path) :
    s.causeEnded p = true ↔
      (s.path p).cause = some .plane ∧ (s.path p).alarm = false ∨
      (s.path p).cause = some .companion ∧ (∀ q ∈ (s.path p).companions, (s.path q).state ≠ .quenched) ∨
      (s.path p).cause = some .peerAll ∧
        ∃ k e, s.peer k = some e ∧ (e.links.get p).link ≠ none ∧ (e.links.get p).reach = .reachable := by
  have hpeers : (s.peerSlots.any fun k => s.hasLink p k && decide (s.reachOn k p = .reachable)) = true ↔
      ∃ k e, s.peer k = some e ∧ (e.links.get p).link ≠ none ∧ (e.links.get p).reach = .reachable := by
    simp only [List.any_eq_true, mem_peerSlots, Bool.and_eq_true, decide_eq_true_eq]
    constructor
    · rintro ⟨k, ⟨e, he⟩, hlink, hreach⟩
      rw [hasLink_eq s p k e he, Option.isSome_iff_ne_none] at hlink
      rw [State.reachOn, he] at hreach
      exact ⟨k, e, he, hlink, hreach⟩
    · rintro ⟨k, e, he, hlink, hreach⟩
      refine ⟨k, ⟨e, he⟩, ?_, ?_⟩
      · rw [hasLink_eq s p k e he, Option.isSome_iff_ne_none]
        exact hlink
      · rw [State.reachOn, he]
        exact hreach
  unfold State.causeEnded
  split
  next h => simp [h]
  next h => simp [h, State.companionQuenched]
  next h => simp [h, hpeers]
  next hplane hcompanion hpeerAll =>
    refine iff_of_false Bool.false_ne_true ?_
    rintro (⟨h, -⟩ | ⟨h, -⟩ | ⟨h, -⟩)
    · exact hplane h
    · exact hcompanion h
    · exact hpeerAll h

theorem autoReady_iff (s : State) (p : Path) :
    s.autoReady p = true ↔ (s.path p).autoRevive = true ∧ (s.path p).state = .quenched ∧ s.testPassed p = true ∧
      ((s.path p).cause = some .plane ∧ (s.path p).alarm = false ∨
        (s.path p).cause = some .companion ∧ (∀ q ∈ (s.path p).companions, (s.path q).state ≠ .quenched) ∨
        (s.path p).cause = some .peerAll ∧
          ∃ k e, s.peer k = some e ∧ (e.links.get p).link ≠ none ∧ (e.links.get p).reach = .reachable) := by
  rw [← causeEnded_iff]
  simp only [State.autoReady, Bool.and_eq_true, decide_eq_true_eq]
  tauto

/-! ## The requests (R90, R101, R104) -/

theorem revivable_iff (st : PathState) : st.revivable = true ↔ st = .quenched ∨ st = .drained := by
  cases st <;> simp [PathState.revivable]

section
variable {n : Nat} {p : Path} (s : State)

theorem ownQuench_unknown (h : Path.ofNum n = none) : ownQuench n s = refuse s .badHandle := by rw [ownQuench, h]
theorem ownRevive_unknown (h : Path.ofNum n = none) : ownRevive n s = refuse s .badHandle := by rw [ownRevive, h]
theorem ownDrain_unknown (h : Path.ofNum n = none) : ownDrain n s = refuse s .badHandle := by rw [ownDrain, h]

theorem ownQuench_known (h : Path.ofNum n = some p) :
    ownQuench n s = if (s.path p).state.live then { state := quenchPath p .manual s, result := .done }
      else refuse s .wrongState := by
  rw [ownQuench, h]

theorem ownRevive_known (h : Path.ofNum n = some p) :
    ownRevive n s = if !(s.path p).state.revivable then refuse s .wrongState
      else if !s.testPassed p then refuse s .causePresent
      else { state := revive 4 p s, result := if (s.path p).lineUp then .accepted else .done } := by
  rw [ownRevive, h]

theorem ownDrain_known (h : Path.ofNum n = some p) :
    ownDrain n s = if (s.path p).state = .drained then refuse s .wrongState
      else { state := drainPath p s, result := .done } := by
  rw [ownDrain, h]

end

section
variable {tag n : Nat} {s t : State} {res : Result}

theorem quench_replies (hn : n < 256) (hs : s.ready) (h : ownQuench n s.hunting = { state := t, result := res }) :
    RepliesWith (.quench tag n) s tag 15 res [] t := repliesWith_of_own (r := .quench n) rfl (fits_iff.2 hn) hs h

theorem revive_replies (hn : n < 256) (hs : s.ready) (h : ownRevive n s.hunting = { state := t, result := res }) :
    RepliesWith (.revive tag n) s tag 16 res [] t := repliesWith_of_own (r := .revive n) rfl (fits_iff.2 hn) hs h

theorem drain_replies (hn : n < 256) (hs : s.ready) (h : ownDrain n s.hunting = { state := t, result := res }) :
    RepliesWith (.drain tag n) s tag 17 res [] t := repliesWith_of_own (r := .drain n) rfl (fits_iff.2 hn) hs h

end

/-! ## The quench chain (R98, R100) -/

section
variable {s : State} {p : Path} {why : Cause}

/-- A quenched path alone, with its part of the queues and timers cleared (R100). -/
def State.quenchedOn (s : State) (p : Path) (why : Cause) : State :=
  s.withPath p { s.path p with state := .quenched, cause := some why, settleTimer := none, class2 := [], class4 := [] }

theorem quenchOne_live (h : (s.path p).state.live = true) :
    quenchOne p why s = raisePath p .state (if (s.path p).state = .proving then s.quenchedOn p why
      else leaveService p (s.path p).class4 (s.quenchedOn p why)) := by
  rcases (live_iff _).1 h with h | h | h <;> rw [quenchOne, h] <;> rfl

theorem livePaths_le_four (s : State) : livePaths s ≤ 4 := List.length_filter_le _ _

theorem livePaths_quenchOne_lt (h : (s.path p).state.live = true) : livePaths (quenchOne p why s) < livePaths s := by
  refine filter_length_lt _ _ _ (fun q _ hq => ?_) p (mem_pathAll p) ?_ h
  · rw [(quenchOne_path p why s q).1] at hq
    split at hq
    · cases hq
    · exact hq
  · rw [(quenchOne_path p why s p).1, if_pos rfl]
    rfl

theorem livePaths_enterQuench_le (n : Nat) (p : Path) (why : Cause) (s : State) :
    livePaths (enterQuench n p why s) ≤ livePaths s :=
  filter_length_le _ _ _ fun q _ => enterQuench_live n p why s q

theorem fires_iff {src : QuenchSource} {q : Path} : s.fires src q = true ↔ src ∈ (s.path q).sources ∧
    (s.path q).state.live = true := by simp [State.fires]

/-- A live path that is quenched hands COMPANION to each of its dependents, in whose chains one live path is less. -/
theorem quenchPath_live (h : (s.path p).state.live = true) :
    quenchPath p why s = forEach ((quenchOne p why s).dependents p)
      (fun q t => if .companion ∈ (t.path q).sources ∧ (t.path q).state.live = true then quenchPath q .companion t else t)
      (quenchOne p why s) := by
  have hlt := livePaths_quenchOne_lt (why := why) h
  have hle := livePaths_le_four s
  refine (enterQuench_succ 3 p why s).trans (forEach_congr_of (fun t => livePaths t ≤ 3) ?_ ?_ _ (by omega))
  · intro q t ht
    by_cases hf : t.fires .companion q = true
    · rw [if_pos hf, if_pos (fires_iff.1 hf)]
      exact enterQuench_congr 3 4 q .companion t (fires_iff.1 hf).2 ht (by omega)
    · rw [if_neg hf, if_neg (fires_iff.not.1 hf)]
  · intro q t ht
    split
    · exact (livePaths_enterQuench_le 4 q .companion t).trans ht
    · exact ht

/-- A PROVING path without dependents is quenched alone. -/
theorem quenchPath_alone (h : (s.path p).state = .proving) (hd : ∀ q, q ≠ p → p ∉ (s.path q).companions) :
    quenchPath p why s = raisePath p .state (s.quenchedOn p why) := by
  have hlive : (s.path p).state.live = true := by rw [h]; rfl
  have hone : quenchOne p why s = raisePath p .state (s.quenchedOn p why) := by rw [quenchOne_live hlive, if_pos h]
  rw [quenchPath_live hlive, ← hone]
  refine forEach_idle fun q hq => if_neg ?_
  have hdependent : p ∈ (s.path q).companions := by
    rw [dependents_eq, List.mem_filter, decide_eq_true_eq, (quenchOne_path p why s q).2.1] at hq
    exact hq.2
  have hself : q = p := by_contra fun hne => hd q hne hdependent
  rw [(quenchOne_path p why s q).1, if_pos hself]
  rintro ⟨-, ⟨⟩⟩

end

/-! ## Revivals (R105, R106) -/

section
variable {s : State} {p : Path}

theorem quenchedPaths_le_four (s : State) : quenchedPaths s ≤ 4 := List.length_filter_le _ _

theorem quenchedPaths_revive_le (n : Nat) (h : s.testPassed p = true) : quenchedPaths (revive n p s) ≤ quenchedPaths s := by
  refine filter_length_le _ _ _ fun q _ hq => ?_
  rw [decide_eq_true_eq] at hq ⊢
  exact revive_quenched n p s q h hq

theorem revive_drained (h : (s.path p).state ≠ .quenched) (ht : s.testPassed p = true) : revive 4 p s = reviveOne p s := by
  rw [revive_succ 3 p s ht, if_neg h]

/-- A revival from QUENCHED gives a release event to each dependent, in whose chains one QUENCHED path is less. -/
theorem revive_leftQuenched (h : (s.path p).state = .quenched) (ht : s.testPassed p = true) :
    revive 4 p s = leftQuenched p (reviveOne p s) := by
  have hlt := reviveOne_lt p s h
  have hle := quenchedPaths_le_four s
  rw [revive_succ 3 p s ht, if_pos h]
  refine forEach_congr_of (fun t => quenchedPaths t ≤ 3) ?_ ?_ _ (by omega)
  · intro q t hq
    unfold releaseEvent
    split
    next ha => exact revive_congr 3 4 q t (autoReady_quenched ha).1 (autoReady_quenched ha).2 hq (by omega)
    · rfl
  · intro q t hq
    unfold releaseEvent
    split
    next ha => exact (quenchedPaths_revive_le 4 (autoReady_quenched ha).2).trans hq
    · exact hq

theorem leftQuenched_eq (p : Path) (s : State) :
    leftQuenched p s = (Path.all.filter fun q => decide (p ∈ (s.path q).companions)).foldl (fun t q => releaseEvent q t) s := by
  rw [← dependents_eq]
  rfl

end

/-! ## The settling -/

/-- The requests decided by the state of the path they name. -/
theorem quench_revive_drain_requests (tag n : Nat) (s : State) (hn : n < 256) (hs : s.ready) :
    match Path.ofNum n with
    | none =>
        RepliesWith (.quench tag n) s tag 15 .badHandle [] s.hunting ∧
          RepliesWith (.revive tag n) s tag 16 .badHandle [] s.hunting ∧
          RepliesWith (.drain tag n) s tag 17 .badHandle [] s.hunting
    | some p =>
        (if (s.path p).state = .proving ∨ (s.path p).state = .sound ∨ (s.path p).state = .suspect then
          RepliesWith (.quench tag n) s tag 15 .done [] (quenchPath p .manual s.hunting)
        else RepliesWith (.quench tag n) s tag 15 .wrongState [] s.hunting) ∧
        (if (s.path p).state ≠ .quenched ∧ (s.path p).state ≠ .drained then
          RepliesWith (.revive tag n) s tag 16 .wrongState [] s.hunting
        else if (.plane ∈ (s.path p).sources ∧ (s.path p).alarm = true) ∨
            (.companion ∈ (s.path p).sources ∧ ∃ q ∈ (s.path p).companions, (s.path q).state = .quenched) ∨
            (.score ∈ (s.path p).sources ∧ (s.path p).score = 255) then
          RepliesWith (.revive tag n) s tag 16 .causePresent [] s.hunting
        else
          RepliesWith (.revive tag n) s tag 16 (if (s.path p).lineUp then .accepted else .done) []
            (revive 4 p s.hunting)) ∧
        if (s.path p).state = .drained then RepliesWith (.drain tag n) s tag 17 .wrongState [] s.hunting
        else RepliesWith (.drain tag n) s tag 17 .done [] (drainPath p s.hunting) := by
  cases h : Path.ofNum n with
  | none =>
    exact ⟨quench_replies hn hs (ownQuench_unknown _ h), revive_replies hn hs (ownRevive_unknown _ h),
      drain_replies hn hs (ownDrain_unknown _ h)⟩
  | some p =>
    have hquench := ownQuench_known s.hunting h
    have hrevive := ownRevive_known s.hunting h
    have hdrain := ownDrain_known s.hunting h
    rw [State.path_hunting] at hquench hrevive hdrain
    refine ⟨?_, ?_, ?_⟩
    · split
      next hlive => exact quench_replies hn hs (hquench.trans (if_pos ((live_iff _).2 hlive)))
      next hlive => exact quench_replies hn hs (hquench.trans (if_neg ((live_iff _).not.2 hlive)))
    · split
      next hstate =>
        have hno : (s.path p).state.revivable = false := by
          rw [← Bool.not_eq_true, revivable_iff, not_or]
          exact hstate
        exact revive_replies hn hs (hrevive.trans (if_pos (by rw [hno]; rfl)))
      next hstate =>
        have hyes : (s.path p).state.revivable = true := by
          rw [revivable_iff]
          tauto
        rw [hyes, if_neg (by decide)] at hrevive
        have htest := testPassed_iff s.hunting p
        split
        next hcause =>
          have hfailed : s.hunting.testPassed p = false := by
            rw [← Bool.not_eq_true, htest]
            rintro ⟨hplane, hcompanion, hscore⟩
            exact hcause.elim hplane fun h => h.elim hcompanion hscore
          exact revive_replies hn hs (hrevive.trans (if_pos (by rw [hfailed]; rfl)))
        next hcause =>
          have hpassed : s.hunting.testPassed p = true :=
            htest.2 ⟨fun h => hcause (.inl h), fun h => hcause (.inr (.inl h)), fun h => hcause (.inr (.inr h))⟩
          exact revive_replies hn hs (hrevive.trans (if_neg (by rw [hpassed]; decide)))
    · split
      next hstate => exact drain_replies hn hs (hdrain.trans (if_pos hstate))
      next hstate => exact drain_replies hn hs (hdrain.trans (if_neg hstate))

/-- A drain: the path is emptied with its rounds stopped, leaves service, or gives the release events of leaving QUENCHED. -/
theorem drainPath_cases (s : State) (p : Path) : ∃ u,
    RoundsStopped p (s.withPath p { (s.path p).emptied with state := .drained, settleTimer := none }) u ∧
    ((s.path p).state.inService = true → drainPath p s = raisePath p .state (leaveService p (s.path p).class4 u)) ∧
    ((s.path p).state.inService = false → (s.path p).state ≠ .quenched → drainPath p s = raisePath p .state u) ∧
    ((s.path p).state = .quenched →
      drainPath p s = (Path.all.filter fun q => decide (p ∈ (u.path q).companions)).foldl (fun t q => releaseEvent q t)
        (raisePath p .state u)) := by
  refine ⟨_, stopRounds_spec p _, fun h => ?_, fun h hq => ?_, fun h => ?_⟩
  · have hq : (s.path p).state ≠ .quenched := fun e => by
      rw [e] at h
      cases h
    unfold drainPath
    simp only [if_pos h, if_neg hq]
    rfl
  · unfold drainPath
    simp only [h, if_neg hq]
    rfl
  · refine Eq.trans ?_ (leftQuenched_eq p _)
    unfold drainPath
    simp only [h]
    rfl

/-- The record that a path revived with its line UP begins with (R105). -/
def State.provingAgain (s : State) (p : Path) : State :=
  s.withPath p { s.path p with
    cause := none, score := 0, state := .proving, settleTimer := some (s.stc.time + (s.path p).settleTime * 1000) }

/-- The record that a path revived with its line DOWN begins with (R105). -/
def State.downAgain (s : State) (p : Path) : State :=
  s.withPath p { (s.path p).emptied with cause := none, score := 0, state := .down, settleTimer := none }

theorem revivedPath_up {s : State} {p : Path} (h : (s.path p).lineUp = true) :
    revivedPath p s = if (s.path p).state = .drained then beginRound p (s.provingAgain p) else s.provingAgain p := if_pos h

theorem revivedPath_down {s : State} {p : Path} (h : (s.path p).lineUp = false) :
    revivedPath p s = if (s.path p).state = .quenched then stopRounds p (s.downAgain p) else s.downAgain p :=
  if_neg (Bool.eq_false_iff.1 h)

/-- Settles O27: each request by the state of its path, the quench chain and the revivals by the measure that each link of the
chain lowers, so that every member starts its own chain anew. -/
theorem quenchReviveAndDrainAreDecidedByState : Obligations.QuenchReviveAndDrainAreDecidedByState := by
  unfold Obligations.QuenchReviveAndDrainAreDecidedByState
  refine ⟨fun tag n s _ hn hs => quench_revive_drain_requests tag n s hn hs, fun s p why h hd => quenchPath_alone h hd, ?_,
    drainPath_cases, ?_, ?_⟩
  · rintro s u v p why hlive rfl rfl
    rw [quenchPath_live hlive, dependents_eq, quenchOne_live hlive]
    rfl
  · intro s p hstate ht
    have hdrained : (s.path p).state = .drained → revive 4 p s = raisePath p .state (revivedPath p s) := fun h =>
      revive_drained (by rw [h]; decide) ht
    have hquenched : (s.path p).state = .quenched → revive 4 p s =
        (Path.all.filter fun q => decide (p ∈ ((revivedPath p s).path q).companions)).foldl (fun t q => releaseEvent q t)
          (raisePath p .state (revivedPath p s)) := fun h =>
      (revive_leftQuenched h ht).trans (leftQuenched_eq p (reviveOne p s))
    cases hup : (s.path p).lineUp with
    | true =>
      refine ⟨s.provingAgain p, revivedPath p s, fun _ => ⟨rfl, fun h => ?_, fun h => ?_⟩, nofun, hdrained, hquenched⟩
      · rw [revivedPath_up hup, if_pos h]
      · rw [revivedPath_up hup, h]
        rfl
    | false =>
      refine ⟨s.downAgain p, revivedPath p s, nofun, fun _ => ⟨rfl, fun h => ?_, fun h => ?_⟩, hdrained, hquenched⟩
      · rw [revivedPath_down hup, h]
        rfl
      · rw [revivedPath_down hup, if_pos h]
        exact stopRounds_spec p _
  · rintro s p r rfl
    refine ⟨testPassed_iff s p, fun ready hready => ?_⟩
    rw [← autoReady_iff] at hready
    rw [hready]
    exact ⟨fun h => if_pos h, fun h => if_neg h⟩

end Sys2Proof.Machine
end

section
/-! PROOFS. Requests about conversations and the rules of the conversation table touch no path but in its transmit queues:
`State.roads` stays as it was. -/

namespace Sys2Proof.Machine

@[simp] theorem advanceTo_roads (n : Nat) (s : State) : (advanceTo n s).roads = s.roads := rfl
@[simp] theorem updHlu_roads (f : Hlu → Hlu) (s : State) : (updHlu f s).roads = s.roads := rfl
@[simp] theorem withdrawProbes_roads (n : Nat) (s : State) : (withdrawProbes n s).roads = s.roads :=
  mapPaths_roads _ s fun _ => rfl

@[simp] theorem queueOpt1_roads (p : Path) (f : Option QFrame) (s : State) : (queueOpt (queue1 p) f s).roads = s.roads :=
  queueOpt_roads _ f s (queue1_roads p)
@[simp] theorem queueOpt2_roads (p : Path) (f : Option QFrame) (s : State) : (queueOpt (queue2 p) f s).roads = s.roads :=
  queueOpt_roads _ f s (queue2_roads p)
@[simp] theorem queueOpt3_roads (p : Path) (f : Option QFrame) (s : State) : (queueOpt (queue3 p) f s).roads = s.roads :=
  queueOpt_roads _ f s (queue3_roads p)

/-! ## Requests about conversations (Machine/ConvRequests.lean) -/

@[simp] theorem openAttempt_roads (h : Nat) (p : Path) (n : Nat) (s : State) : (openAttempt h p n s).roads = s.roads := by
  unfold openAttempt
  split <;> simp

@[simp] theorem openFrom_roads (h : Nat) (l : List Path) (s : State) : (openFrom h l s).roads = s.roads := by
  unfold openFrom
  (repeat' split) <;> simp

@[simp] theorem refuse_roads (s : State) (r : Result) : (refuse s r).state.roads = s.roads := rfl

@[simp] theorem ownOpen_roads (a : OpenArgs) (s : State) : (ownOpen a s).state.roads = s.roads := by
  unfold ownOpen
  (repeat' split) <;> simp

@[simp] theorem closeGracefully_roads (h : Nat) (c : Conv) (s : State) : (closeGracefully h c s).state.roads = s.roads := by
  unfold closeGracefully
  split <;> simp

@[simp] theorem closeAborting_roads (h : Nat) (c : Conv) (s : State) : (closeAborting h c s).state.roads = s.roads := by
  unfold closeAborting
  simp only
  split <;> simp

@[simp] theorem ownClose_roads (h m : Nat) (s : State) : (ownClose h m s).state.roads = s.roads := by
  unfold ownClose
  (repeat' split) <;> simp

@[simp] theorem ownHold_roads (h d : Nat) (s : State) : (ownHold h d s).state.roads = s.roads := by
  unfold ownHold
  (repeat' split) <;> simp

@[simp] theorem ownRelease_roads (h : Nat) (s : State) : (ownRelease h s).state.roads = s.roads := by
  unfold ownRelease
  simp only
  (repeat' split) <;> simp

@[simp] theorem forceShift_roads (h : Nat) (c : Conv) (target : Option Path) (s : State) :
    (forceShift h c target s).roads = s.roads := by
  unfold forceShift
  split <;> simp

@[simp] theorem ownShift_roads (h : Nat) (target : Option Nat) (s : State) : (ownShift h target s).state.roads = s.roads := by
  unfold ownShift
  (repeat' split) <;> simp

@[simp] theorem ownRestage_roads (h : Nat) (l : List Nat) (s : State) : (ownRestage h l s).state.roads = s.roads := by
  unfold ownRestage
  (repeat' split) <;> simp

@[simp] theorem ownClearReturned_roads (h q : Nat) (s : State) : (ownClearReturned h q s).state.roads = s.roads := by
  unfold ownClearReturned
  (repeat' split) <;> simp

theorem issueCell_roads {payload : List Byte} {s t : State} {n : Nat} (h : issueCell payload s = some (n, t)) :
    t.roads = s.roads := by
  unfold issueCell at h
  split at h
  · cases h
  · cases h
    rfl

theorem acceptSend_roads (h : Nat) (c : Conv) (q : Nat) (kind : RecKind) (payload : List Byte) (n : Nat) (s : State) :
    (acceptSend h c q kind payload n s).state.roads = s.roads := rfl

@[simp] theorem ownSend_roads (h kind : Nat) (payload : List Byte) (s : State) :
    (ownSend h kind payload s).state.roads = s.roads := by
  unfold ownSend
  repeat' split
  case h_2 _ _ hcell => exact (acceptSend_roads ..).trans (issueCell_roads hcell)
  all_goals rfl

/-! ## The requests that read, and those about the station -/

@[simp] theorem ownReadConversation_roads (h : Nat) (s : State) : (ownReadConversation h s).state.roads = s.roads := by
  unfold ownReadConversation
  (repeat' split) <;> rfl

@[simp] theorem ownReadJournal_roads (h : Nat) (s : State) : (ownReadJournal h s).state.roads = s.roads := by
  unfold ownReadJournal
  (repeat' split) <;> rfl

@[simp] theorem ownScan_roads (st n d : Nat) (l : List Nat) (s : State) : (ownScan st n d l s).state.roads = s.roads := by
  unfold ownScan
  simp only
  split <;> rfl

@[simp] theorem ownReadPeer_roads (k : Nat) (s : State) : (ownReadPeer k s).state.roads = s.roads := by
  unfold ownReadPeer
  (repeat' split) <;> rfl

@[simp] theorem ownReadPath_roads (n : Nat) (s : State) : (ownReadPath n s).state.roads = s.roads := by
  unfold ownReadPath
  split <;> rfl

@[simp] theorem ownSetStation_roads (a : SetStationArgs) (s : State) : (ownSetStation a s).state.roads = s.roads := by
  unfold ownSetStation
  (repeat' split) <;> rfl

@[simp] theorem ownSetNoticeMask_roads (l : List Nat) (s : State) : (ownSetNoticeMask l s).state.roads = s.roads := by
  unfold ownSetNoticeMask
  split <;> rfl

@[simp] theorem ownRestart_roads (n : Nat) (s : State) : (ownRestart n s).state.roads = s.roads := by
  unfold ownRestart
  split <;> rfl

/-! ## Settling (Machine/Settling.lean) -/

@[simp] theorem settleJournal_roads (h d : Nat) (x : Option Nat) (s : State) : (settleJournal h d x s).roads = s.roads := by
  unfold settleJournal
  split <;> simp

@[simp] theorem startPause_roads (h : Nat) (s : State) : (startPause h s).roads = s.roads := by
  unfold startPause
  (repeat' split) <;> simp

@[simp] theorem voidRecord_roads (h v : Nat) (s : State) : (voidRecord h v s).roads = s.roads := updConv_roads h _ s

@[simp] theorem inquiryVoided_roads (h v d : Nat) (c : Conv) (s : State) : (inquiryVoided h v d c s).roads = s.roads := by
  unfold inquiryVoided
  split <;> simp

@[simp] theorem shiftSettle_roads (h d : Nat) (x : Option Nat) (s : State) : (shiftSettle h d x s).roads = s.roads := by
  unfold shiftSettle
  (repeat' split) <;> simp

@[simp] theorem shiftVoid_roads (h : Nat) (v : Option Nat) (out : AnswerOutcome) (s : State) :
    (shiftVoid h v out s).roads = s.roads := by
  unfold shiftVoid
  (repeat' split) <;> simp

@[simp] theorem startCarrying_roads (h : Nat) (s : State) : (startCarrying h s).roads = s.roads := by
  unfold startCarrying
  (repeat' split) <;> simp

@[simp] theorem applyShiftAnswer_roads (h k : Nat) (sl : Slot) (p : Path) (out : AnswerOutcome) (d : Nat) (s : State) :
    (applyShiftAnswer h k sl p out d s).roads = s.roads := by
  simp [applyShiftAnswer]

/-! ## Frames (Machine/Inbound.lean) -/

@[simp] theorem answerFrame_roads (p : Path) (k : Nat) (src dst : Option Nat) (n : Nat) (b : FrameBody) (o : Option Nat)
    (s : State) : (answerFrame p k src dst n b o s).roads = s.roads := queueOpt1_roads p _ s

@[simp] theorem implicitAccept_roads (h : Nat) (c : Conv) (src : Option Nat) (p : Path) (s : State) :
    (implicitAccept h c src p s).roads = s.roads := by
  unfold implicitAccept
  (repeat' split) <;> simp

@[simp] theorem takeOpenReply_roads (p : Path) (k : Nat) (f : RxFrame) (b : Bool) (s : State) :
    (takeOpenReply p k f b s).roads = s.roads := by
  unfold takeOpenReply
  (repeat' split) <;> simp

@[simp] theorem admitConv_roads (h k : Nat) (e : Peer) (ph : Nat) (p : Path) (s : State) :
    (admitConv h k e ph p s).roads = s.roads := by
  unfold admitConv
  simp only
  split <;> simp

@[simp] theorem takeOpen_roads (p : Path) (k ph : Nat) (s : State) : (takeOpen p k ph s).roads = s.roads := by
  unfold takeOpen
  (repeat' split) <;> simp

@[simp] theorem acceptData_roads (h : Nat) (c : Conv) (p : Path) (q : Nat) (kind : RecKind) (pl : List Byte) (s : State) :
    (acceptData h c p q kind pl s).roads = s.roads := rfl

@[simp] theorem takeData_roads (h : Nat) (p : Path) (n q : Nat) (kind : RecKind) (pl : List Byte) (s : State) :
    (takeData h p n q kind pl s).roads = s.roads := by
  unfold takeData
  simp only
  (repeat' split) <;> simp

@[simp] theorem takeInquiry_roads (h : Nat) (p : Path) (n : Nat) (v : Option Nat) (s : State) :
    (takeInquiry h p n v s).roads = s.roads := by
  unfold takeInquiry
  split <;> simp

@[simp] theorem closeCompletion_roads (h : Nat) (s : State) : (closeCompletion h s).roads = s.roads := by
  unfold closeCompletion
  (repeat' split) <;> simp

@[simp] theorem takeClose_roads (h : Nat) (p : Path) (n : Nat) (s : State) : (takeClose h p n s).roads = s.roads := by
  unfold takeClose
  simp only
  (repeat' split) <;> simp

@[simp] theorem takeCloseReply_roads (h n : Nat) (s : State) : (takeCloseReply h n s).roads = s.roads := by
  unfold takeCloseReply
  (repeat' split) <;> simp

@[simp] theorem takeAbandon_roads (h : Nat) (c : Conv) (s : State) : (takeAbandon h c s).roads = s.roads := by
  unfold takeAbandon
  split <;> simp

@[simp] theorem takeUnbound_roads (p : Path) (k : Nat) (f : RxFrame) (s : State) :
    (takeUnbound p k f s).roads = s.roads := by
  unfold takeUnbound
  split <;> simp

@[simp] theorem echo_roads (p : Path) (sender : Option Nat) (s : State) : (echo p sender s).roads = s.roads := by
  unfold echo
  (repeat' split) <;> simp

@[simp] theorem frameCue_roads (p : Path) (sender : Option Nat) (s : State) : (frameCue p sender s).roads = s.roads := by
  unfold frameCue
  split <;> simp

/-! ## Timers of conversations and slots (Machine/Timers.lean) -/

@[simp] theorem queueInquiry_roads (h : Nat) (c : Conv) (p : Path) (v : Nat) (s : State) :
    (queueInquiry h c p v s).roads = s.roads := queueOpt2_roads p _ s

@[simp] theorem roundAction_roads (h : Nat) (s : State) : (roundAction h s).roads = s.roads := by
  unfold roundAction
  (repeat' split) <;> simp [goBackRound, beginInquiry]

@[simp] theorem inquiryAction_roads (h a v e : Nat) (s : State) : (inquiryAction h a v e s).roads = s.roads := by
  unfold inquiryAction
  (repeat' split) <;> simp

@[simp] theorem waitPauseEnds_roads (h : Nat) (s : State) : (waitPauseEnds h s).roads = s.roads := by
  unfold waitPauseEnds
  (repeat' split) <;> simp

@[simp] theorem nextAttempt_roads (h : Nat) (c : Conv) (p : Path) (n : Nat) (s : State) :
    (nextAttempt h c p n s).roads = s.roads := by
  unfold nextAttempt
  split <;> simp

@[simp] theorem openTimerEnds_roads (h : Nat) (s : State) : (openTimerEnds h s).roads = s.roads := by
  unfold openTimerEnds
  (repeat' split) <;> simp

@[simp] theorem closeAction_roads (h : Nat) (s : State) : (closeAction h s).roads = s.roads := by
  unfold closeAction
  (repeat' split) <;> simp

@[simp] theorem holdEnds_roads (h : Nat) (s : State) : (holdEnds h s).roads = s.roads := by
  unfold holdEnds
  simp only
  (repeat' split) <;> simp

@[simp] theorem parkEnds_roads (h : Nat) (s : State) : (parkEnds h s).roads = s.roads := by
  unfold parkEnds
  (repeat' split) <;> simp

@[simp] theorem holdOffEnds_roads (k : Nat) (s : State) : (holdOffEnds k s).roads = s.roads := by
  unfold holdOffEnds
  (repeat' split) <;> simp

@[simp] theorem repeatAttempt_roads (k : Nat) (sl : Slot) (p : Path) (a : Nat) (s : State) :
    (repeatAttempt k sl p a s).roads = s.roads := by
  unfold repeatAttempt
  split <;> simp

end Sys2Proof.Machine
end

section
/-! PROOFS. Every step keeps the fault scores within 0 to 255 (R78): what writes a path, and the operations over paths and
peers that hand it evidence, quench it or revive it. -/

namespace Sys2Proof.Machine

/-! ## The bound, read where the queues do not count -/

/-- Every fault score lies in 0 to 255, said of the paths without their transmit queues. -/
def LowScores (r : PerPath PathRec × Prt) : Prop := ∀ p, (r.1.get p).score ≤ Config.maxScore

theorem scoresBounded_iff (s : State) : ScoresBounded s ↔ LowScores s.roads := by
  refine forall_congr' fun p => ?_
  rw [State.roads, PerPath.get_map]
  rfl

/-- A path that is rewritten keeps the bound when its new score is within it. -/
theorem updPath_low {s : State} (h : LowScores s.roads) {f : PathRec → PathRec} (p : Path)
    (hf : ∀ r, r.score ≤ Config.maxScore → (f r).score ≤ Config.maxScore) : LowScores (updPath p f s).roads := by
  rw [← scoresBounded_iff] at h ⊢
  intro q
  rw [State.path_updPath]
  split
  · exact hf _ (h p)
  · exact h q

theorem forEach_low {α : Type} {s : State} (h : LowScores s.roads) {f : α → State → State}
    (hf : ∀ a t, LowScores t.roads → LowScores (f a t).roads) (l : List α) : LowScores (forEach l f s).roads :=
  forEach_keeps (fun t => LowScores t.roads) f hf l s h

/-- The bound looks at the paths alone. -/
theorem low_of_paths {s t : State} (h : LowScores s.roads) (ht : t.paths = s.paths) : LowScores t.roads := by
  rw [← scoresBounded_iff] at h ⊢
  intro p
  rw [State.path_congr ht]
  exact h p

section
variable {s : State} (low : LowScores s.roads)
include low

/-- An update that leaves the score alone. -/
@[simp] theorem updPath_keeps_low (p : Path) (f : PathRec → PathRec) (hf : ∀ r, (f r).score = r.score) :
    LowScores (updPath p f s).roads := updPath_low low p fun r hr => (hf r).symm ▸ hr

/-- An update that makes the score 0. -/
@[simp] theorem updPath_clears_low (p : Path) (f : PathRec → PathRec) (hf : ∀ r, (f r).score = 0) :
    LowScores (updPath p f s).roads := updPath_low low p fun r _ => (hf r).symm ▸ Nat.zero_le _

@[simp] theorem setRound_low (p : Path) (n : Option Nat) : LowScores (setRound p n s).roads := low
@[simp] theorem setPeer_low (k : Nat) (e : Peer) : LowScores (setPeer k e s).roads := low
@[simp] theorem erasePeer_low (k : Nat) : LowScores (erasePeer k s).roads := low

@[simp] theorem updLink_low (k : Nat) (p : Path) (f : PeerLink → PeerLink) : LowScores (updLink k p f s).roads :=
  low_of_paths low (updLink_paths k p f s)

/-! ## Quench (Machine/Service.lean) -/

@[simp] theorem quenchOne_low (p : Path) (why : Cause) : LowScores (quenchOne p why s).roads := by
  unfold quenchOne
  split <;> simp [low]

omit low in
theorem enterQuench_low : ∀ (n : Nat) (p : Path) (why : Cause) {s : State}, LowScores s.roads →
    LowScores (enterQuench n p why s).roads
  | 0, _, _, _, low => low
  | n + 1, p, why, _, low => by
    rw [enterQuench_succ]
    refine forEach_low (quenchOne_low low p why) (fun q t ht => ?_) _
    split
    · exact enterQuench_low n q .companion ht
    · exact ht

@[simp] theorem quenchPath_low (p : Path) (why : Cause) : LowScores (quenchPath p why s).roads := enterQuench_low 4 p why low

@[simp] theorem handCondition_low (src : QuenchSource) (why : Cause) (p : Path) :
    LowScores (handCondition src why p s).roads := by
  unfold handCondition
  split <;> simp [low]

@[simp] theorem provingCheck_low (p : Path) : LowScores (provingCheck p s).roads := by
  unfold provingCheck
  simp only
  (repeat' split) <;> simp [low]

/-! ## The fault score (R78) -/

/-- A new score is held within the bound. -/
theorem applyScore_low (p : Path) {v : Nat} (hv : v ≤ Config.maxScore) : LowScores (applyScore p v s).roads := by
  have hset : LowScores (s.scored p v).roads := by
    rw [scored_roads]
    exact updPath_low low p fun _ _ => hv
  cases hl : (s.path p).state.live with
  | false =>
    rw [applyScore_idle _ _ _ hl]
    exact low
  | true =>
    rw [applyScore_live _ _ _ hl]
    split
    · exact handCondition_low hset _ _ p
    · exact hset

@[simp] theorem addScore_low (p : Path) (n : Nat) : LowScores (addScore p n s).roads :=
  applyScore_low low p (Nat.min_le_left _ _)

@[simp] theorem lowerScore_low (p : Path) : LowScores (lowerScore p s).roads :=
  applyScore_low low p ((Nat.sub_le _ _).trans ((scoresBounded_iff s).2 low p))

/-! ## Probe rounds and reachability -/

@[simp] theorem beginRound_low (p : Path) : LowScores (beginRound p s).roads :=
  setRound_low (forEach_low (forEach_low low (fun k _ h => updLink_low h k p _) _)
    (fun _ _ h => (queueOpt3_roads p _ _).symm ▸ h) _) p _

@[simp] theorem becomeUnknown_low (p : Path) (k : Nat) : LowScores (becomeUnknown p k s).roads := by
  unfold becomeUnknown
  split
  · exact updLink_low (s := raisePeer k .reachability s) low k p _
  · exact updLink_low low k p _

@[simp] theorem stopRounds_low (p : Path) : LowScores (stopRounds p s).roads :=
  forEach_low (updPath_keeps_low (setRound_low low p none) p _ (by intro _; rfl))
    (fun k _ h => becomeUnknown_low h p k) _

@[simp] theorem testPeerAll_low (p : Path) : LowScores (testPeerAll p s).roads := by
  unfold testPeerAll
  split <;> simp [low]

@[simp] theorem becomeUnreachable_low (k : Nat) (p : Path) : LowScores (becomeUnreachable k p s).roads := by
  simp [becomeUnreachable, low]

@[simp] theorem missRound_low (p : Path) (k : Nat) : LowScores (missRound p k s).roads := by
  unfold missRound
  simp only
  (repeat' split) <;> simp [low]

@[simp] theorem closeRound_low (p : Path) : LowScores (closeRound p s).roads := by
  have hmiss : ∀ l, LowScores (forEach l (missRound p) s).roads := forEach_low low fun k _ h => missRound_low h p k
  unfold closeRound
  simp only
  split <;> simp [hmiss]

@[simp] theorem markPeer_low (k : Nat) (p : Path) : LowScores (markPeer k p s).roads := by
  unfold markPeer
  split <;> simp [low]

/-! ## Revival -/

@[simp] theorem revivedPath_low (p : Path) : LowScores (revivedPath p s).roads := by
  unfold revivedPath
  simp only
  (repeat' split) <;> simp [low]

omit low in
theorem revive_low : ∀ (n : Nat) (p : Path) {s : State}, LowScores s.roads → LowScores (revive n p s).roads
  | 0, _, _, low => low
  | n + 1, p, s, low => by
    have hrest : ∀ (q : Path) (t : State), LowScores t.roads →
        LowScores (if t.autoReady q then revive n q t else t).roads := by
      intro q t ht
      split
      · exact revive_low n q ht
      · exact ht
    have hone : LowScores (if (s.path p).lineUp then provingCheck p (raisePath p .state (revivedPath p s))
        else raisePath p .state (revivedPath p s)).roads := by
      split
      · exact provingCheck_low (s := raisePath p .state (revivedPath p s)) (revivedPath_low low p) p
      · exact revivedPath_low low p
    unfold revive
    simp only
    split
    · exact forEach_low hone hrest _
    · exact hone

@[simp] theorem releaseEvent_low (p : Path) : LowScores (releaseEvent p s).roads := by
  unfold releaseEvent
  split
  · exact revive_low 4 p low
  · exact low

@[simp] theorem leftQuenched_low (p : Path) : LowScores (leftQuenched p s).roads :=
  forEach_low low (fun q _ h => releaseEvent_low h q) _

@[simp] theorem becomeReachable_low (k : Nat) (p : Path) : LowScores (becomeReachable k p s).roads := by
  unfold becomeReachable
  split <;> simp [low]

@[simp] theorem hearPeer_low (k : Nat) (p : Path) : LowScores (hearPeer k p s).roads := by
  unfold hearPeer
  split <;> simp [low]

/-! ## Line transitions and drain -/

@[simp] theorem lineUp_low (p : Path) : LowScores (lineUp p s).roads :=
  provingCheck_low (s := raisePath p .state (beginRound p (updPath p _ s)))
    (beginRound_low (updPath_keeps_low low p _ (by intro _; rfl)) p) p

/-- A path that stops its rounds, and leaves service if it was in it (R74, R90). -/
theorem leftPath_low (p : Path) (b : Bool) (acks : List QFrame) :
    LowScores (raisePath p .state (if b then leaveService p acks (stopRounds p s) else stopRounds p s)).roads := by
  split <;> simp [low]

@[simp] theorem lineDown_low (p : Path) : LowScores (lineDown p s).roads := by
  have hempty : LowScores (updPath p (fun r => { r.emptied with state := .down, score := 0, settleTimer := none }) s).roads :=
    updPath_clears_low low p _ (by intro _; rfl)
  unfold lineDown
  simp only
  split <;> exact leftPath_low hempty p _ _

@[simp] theorem drainPath_low (p : Path) : LowScores (drainPath p s).roads := by
  have hempty : LowScores (updPath p (fun r => { r.emptied with state := .drained, settleTimer := none }) s).roads :=
    updPath_keeps_low low p _ (by intro _; rfl)
  unfold drainPath
  simp only
  split
  · exact leftQuenched_low (leftPath_low hempty p _ _) p
  · exact leftPath_low hempty p _ _

end

end Sys2Proof.Machine
end

section
/-! PROOFS. The fault scores under frames, timers, samples, requests and the host link, and so under every step. -/

namespace Sys2Proof.Machine

section
variable {s : State} (low : LowScores s.roads)
include low

/-! ## Settling (Machine/Settling.lean) -/

@[simp] theorem settleCredit_low (credit : Option Path) : LowScores (settleCredit credit s).roads := by
  unfold settleCredit
  split <;> simp [low]

@[simp] theorem settleAdvance_low (h d : Nat) (credit : Option Path) : LowScores (settleAdvance h d credit s).roads := by
  have hsettled : LowScores (updConv h
      (fun c => { c with retryCount := 0, ackTimer := c.timerAfterSettle (s.after c.ackInterval) })
      (settleJournal h d none s)).roads := by
    rw [updConv_roads, settleJournal_roads]
    exact low
  unfold settleAdvance
  rw [afterChecks_roads]
  exact settleCredit_low (s := raiseConv h .settled _) hsettled credit

@[simp] theorem settleOn_low (h d : Nat) (credit : Option Path) : LowScores (settleOn h d credit s).roads := by
  unfold settleOn
  (repeat' split) <;> simp [low]

@[simp] theorem inquiryKept_low (h d : Nat) (c : Conv) : LowScores (inquiryKept h d c s).roads := by
  unfold inquiryKept
  split <;> simp [low]

@[simp] theorem applyInquiryAnswer_low (h : Nat) (c : Conv) (out : AnswerOutcome) (d : Nat) :
    LowScores (applyInquiryAnswer h c out d s).roads := by
  unfold applyInquiryAnswer
  split <;> simp [low]

@[simp] theorem takeAnswer_low (h : Nat) (p : Path) (n : Nat) (out : AnswerOutcome) (v : Option Nat) (d : Nat) :
    LowScores (takeAnswer h p n out v d s).roads := by
  unfold takeAnswer applyAnswer
  (repeat' split) <;> simp [low]

/-! ## Frames (Machine/Inbound.lean) -/

@[simp] theorem takeWaitFrom_low (was : ConvState) (h d : Nat) (p : Path) : LowScores (takeWaitFrom was h d p s).roads := by
  unfold takeWaitFrom
  split <;> simp [takeAck, takeWait, low]

@[simp] theorem boundRule_low (was : ConvState) (h : Nat) (p : Path) (f : RxFrame) :
    LowScores (boundRule was h p f s).roads := by
  unfold boundRule
  split <;> simp [takeAck, low]

@[simp] theorem takeAddressed_low (p : Path) (k : Nat) (f : RxFrame) : LowScores (takeAddressed p k f s).roads := by
  unfold takeAddressed
  (repeat' split) <;> simp [low]

@[simp] theorem conversationRule_low (p : Path) (k : Nat) (f : RxFrame) : LowScores (conversationRule p k f s).roads := by
  unfold conversationRule
  (repeat' split) <;> simp [low]

@[simp] theorem takeAtTable_low (p : Path) (sender : Option Nat) (f : RxFrame) :
    LowScores (takeAtTable p sender f s).roads := by
  unfold takeAtTable
  split <;> simp [low]

@[simp] theorem hear_low (p : Path) (sender : Option Nat) : LowScores (hear p sender s).roads := by
  unfold hear
  split <;> simp [low]

@[simp] theorem answerCredit_low (p : Path) (f : RxFrame) : LowScores (answerCredit p f s).roads := by
  unfold answerCredit
  split <;> simp [low]

@[simp] theorem takeLive_low (p : Path) (f : RxFrame) : LowScores (takeLive p f s).roads := by
  have hheard := hear_low low p (s.senderOn p f.srcNode)
  unfold takeLive
  simp only
  split
  · simp [hheard]
  · simp [hheard]
  · rw [frameCue_roads]
    exact takeAtTable_low (answerCredit_low hheard p f) p _ f

@[simp] theorem takeQuenched_low (p : Path) (f : RxFrame) : LowScores (takeQuenched p f s).roads := by
  unfold takeQuenched
  simp only
  split <;> simp [low]

@[simp] theorem takeFrame_low (p : Path) (f : RxFrame) : LowScores (takeFrame p f s).roads := by
  unfold takeFrame
  split <;> simp [low]

@[simp] theorem checkAndTake_low (p : Path) (hd : RxHead) (b : RxBody) : LowScores (checkAndTake p hd b s).roads := by
  unfold checkAndTake
  (repeat' split) <;> simp [low]

theorem receive_low (p : Path) (hd : RxHead) (b : RxBody) : LowScores (receive p hd b s).roads := by
  unfold receive
  split <;> simp [low]

theorem receiveOctets_low (p : Path) (l : List Byte) : LowScores (receiveOctets p l s).roads := by
  unfold receiveOctets
  (repeat' split) <;> simp [low]

/-! ## Timers and samples (Machine/Timers.lean) -/

@[simp] theorem scoreActive_low (c : Conv) (n : Nat) : LowScores (scoreActive c n s).roads := by
  unfold scoreActive
  split <;> simp [low]

@[simp] theorem countRound_low (h : Nat) (c : Conv) : LowScores (countRound h c s).roads := by
  simp [countRound, low]

theorem ackTimerEnds_low (h : Nat) : LowScores (ackTimerEnds h s).roads := by
  unfold ackTimerEnds ackExpired
  repeat' split
  · exact low
  · rw [roundAction_roads]
    exact countRound_low (s := advanceTo _ s) low h _
  · rw [shiftCause_roads]
    exact low
  · exact low

theorem inquiryTimerEnds_low (h : Nat) : LowScores (inquiryTimerEnds h s).roads := by
  unfold inquiryTimerEnds
  repeat' split
  · exact low
  · rw [inquiryAction_roads]
    exact scoreActive_low (s := advanceTo _ s) low _ 16
  · exact low

theorem closeTimerEnds_low (h : Nat) : LowScores (closeTimerEnds h s).roads := by
  unfold closeTimerEnds
  simp only
  repeat' split
  · exact low
  · exact low
  · rw [closeAction_roads]
    exact countRound_low (s := advanceTo _ s) low h _
  · rw [shiftCause_roads]
    exact low

@[simp] theorem giveUp_low (k : Nat) (sl : Slot) (p : Path) : LowScores (giveUp k sl p s).roads := by
  unfold giveUp
  simp only
  rw [choose_roads]
  split
  · exact low
  · exact markPeer_low (s := setSlot k _ s) low _ p

@[simp] theorem slotAction_low (k : Nat) (sl : Slot) (p : Path) (a : Nat) : LowScores (slotAction k sl p a s).roads := by
  unfold slotAction
  (repeat' split) <;> simp [low]

theorem slotInquiryEnds_low (k : Nat) : LowScores (slotInquiryEnds k s).roads := by
  unfold slotInquiryEnds
  repeat' split
  · exact low
  · exact slotAction_low (addScore_low (s := advanceTo _ s) low _ 16) k _ _ _
  · exact low

theorem probeRoundEnds_low (p : Path) : LowScores (probeRoundEnds p s).roads := by
  unfold probeRoundEnds
  split
  · exact low
  · exact beginRound_low (closeRound_low (s := advanceTo _ s) low p) p

theorem becomeSound_low (p : Path) : LowScores (becomeSound p s).roads := by
  unfold becomeSound
  rw [cueAll_roads, raisePath_roads]
  exact updPath_clears_low low p _ (by intro _; rfl)

theorem settleEnds_low (p : Path) : LowScores (settleEnds p s).roads := by
  unfold settleEnds
  simp only
  repeat' split
  · exact low
  · exact becomeSound_low (s := advanceTo _ s) low p
  · exact updPath_keeps_low (s := advanceTo _ s) low p _ (by intro _; rfl)

theorem lineQualified_low (p : Path) (b : Bool) : LowScores (lineQualified p b s).roads := by
  unfold lineQualified
  simp only
  repeat' split
  · exact lineUp_low (s := raisePath p .line s) low p
  · exact low
  · exact lineDown_low (s := raisePath p .line s) low p
  · exact low

theorem lineSampled_low (p : Path) (b : Bool) : LowScores (lineSampled p b s).roads := by
  have hwrite : ∀ f, (∀ r, (f r).score = r.score) → ∀ n, LowScores (updPath p f (advanceTo n s)).roads := fun f hf n =>
    updPath_keeps_low (s := advanceTo n s) low p f hf
  unfold lineSampled
  simp only
  repeat' split
  · exact hwrite _ (by intro _; rfl) _
  · exact hwrite _ (by intro _; rfl) _
  · exact lineQualified_low (hwrite _ (by intro _; rfl) _) p b

theorem alarmQualified_low (p : Path) (b : Bool) : LowScores (alarmQualified p b s).roads := by
  unfold alarmQualified
  simp only
  split
  · exact handCondition_low (s := raisePath p .alarm s) low _ _ p
  · exact releaseEvent_low (s := raisePath p .alarm s) low p

theorem alarmSampled_low (p : Path) (b : Bool) : LowScores (alarmSampled p b s).roads := by
  have hwrite : ∀ f, (∀ r, (f r).score = r.score) → ∀ n, LowScores (updPath p f (advanceTo n s)).roads := fun f hf n =>
    updPath_keeps_low (s := advanceTo n s) low p f hf
  unfold alarmSampled
  simp only
  repeat' split
  · exact hwrite _ (by intro _; rfl) _
  · exact hwrite _ (by intro _; rfl) _
  · exact alarmQualified_low (hwrite _ (by intro _; rfl) _) p b

/-! ## Requests -/

@[simp] theorem ownAddPeer_low (a : AddPeerArgs) : LowScores (ownAddPeer a s).state.roads := by
  unfold ownAddPeer
  (repeat' split) <;> simp [low]

@[simp] theorem removalTest_low (k : Nat) (e : Peer) (p : Path) : LowScores (removalTest k e p s).roads := by
  unfold removalTest
  split <;> simp [low]

@[simp] theorem ownRemovePeer_low (k : Nat) : LowScores (ownRemovePeer k s).state.roads := by
  have htested : ∀ e n, LowScores (forEach Path.all (removalTest k e) (withdrawProbes n s)).roads := fun e n =>
    forEach_low (by simpa using low) (fun p _ h => removalTest_low h k e p) _
  unfold ownRemovePeer
  (repeat' split) <;> simp [low, htested]

@[simp] theorem ownSetPath_low (n : Nat) (a : SetPathArgs) : LowScores (ownSetPath n a s).state.roads := by
  unfold ownSetPath
  (repeat' split) <;> simp [low, PathRec.withSettings]

@[simp] theorem ownQuench_low (n : Nat) : LowScores (ownQuench n s).state.roads := by
  unfold ownQuench
  (repeat' split) <;> simp [low]

@[simp] theorem ownRevive_low (n : Nat) : LowScores (ownRevive n s).state.roads := by
  unfold ownRevive
  (repeat' split) <;> simp [low, revive_low]

@[simp] theorem ownDrain_low (n : Nat) : LowScores (ownDrain n s).state.roads := by
  unfold ownDrain
  (repeat' split) <;> simp [low]

/-- Whatever a request asks, its owner keeps the scores within the bound. -/
theorem ownRequest_low (r : Request) : LowScores (ownRequest r s).state.roads := by
  cases r <;> simp [ownRequest, ownReadStation, low]

end

end Sys2Proof.Machine
end

section
/-! PROOFS. The fault scores at the end of a taking, on the host link, and under restarts and completions: every command and
every step keeps them within 0 to 255. -/

namespace Sys2Proof.Machine

section
variable {s : State} (low : LowScores s.roads)
include low

/-! ## The end of a taking (Machine/Transmit.lean) -/

theorem beginData_low (p : Path) (h : Nat) : LowScores (beginData p h s).roads := by
  unfold beginData
  repeat' split
  · exact low
  · exact low
  · exact updPath_keeps_low (s := setConv h _ s) low p _ (by intro _; rfl)

omit low in
theorem popClass_score (r : PathRec) (cls : Nat) : (r.popClass cls).score = r.score := by
  unfold PathRec.popClass
  split <;> rfl

theorem beginPort_low (p : Path) : LowScores (beginPort p s).roads := by
  unfold beginPort
  simp only
  repeat' split
  · exact low
  · exact updPath_keeps_low low p _ fun r => popClass_score r _
  · exact beginData_low low p _
  · exact low
  · exact low

theorem afterEvent_low : LowScores (afterEvent s).roads :=
  low_of_paths (beginPort_low (beginPort_low (beginPort_low (beginPort_low low .p0) .p1) .p2) .p3) (chooseOut_paths _)

/-! ## The host link (Machine/Link.lean) -/

theorem decideTaking_low (x : Taking) : LowScores (decideTaking x s).roads := by
  cases x with
  | bad | unknown | malformed => exact low
  | send tag h n len payload =>
    have hroads : (ownSend h n payload s).state.roads = s.roads := ownSend_roads h n payload s
    exact hroads.symm ▸ low
  | request tag r => exact ownRequest_low low r

theorem takeHead_low : LowScores (takeHead s).roads := by
  unfold takeHead
  split
  · exact low
  · exact decideTaking_low (s := updHlu _ s) low _

omit low in
theorem intake_low : ∀ (n : Nat) {s : State}, LowScores s.roads → LowScores (intake n s).roads
  | 0, _, low => low
  | n + 1, _, low => by
    unfold intake
    split
    · exact intake_low n (afterEvent_low (takeHead_low low))
    · exact low

theorem endRecord_low (e : RecordEnd) : LowScores (endRecord e s).roads := intake_low _ (s := updHlu _ s) low

theorem hostRecord_low (e : RecordEnd) : LowScores (hostRecord e s).roads := by
  unfold hostRecord
  split
  · exact endRecord_low (s := updHlu _ s) low e
  · exact low

theorem octetArrived_low (o : Byte) : LowScores (octetArrived o s).roads := by
  unfold octetArrived
  simp only
  repeat' split
  · exact afterEvent_low (s := updHlu _ s) low
  · exact endRecord_low (s := updHlu _ s) low _
  · exact low

/-! ## Restarts and completions -/

omit low in
theorem restarted_score (old new : PathRec) : (old.restarted new).score = new.score := by
  unfold PathRec.restarted
  split <;> rfl

omit low in
/-- A restart of either kind begins every score at 0 (R92). -/
theorem restartEffect_low (k : RestartKind) (s : State) : LowScores (restartEffect k s).roads := by
  rw [← scoresBounded_iff]
  intro p
  have hscore : ((restartEffect k s).path p).score = 0 := by
    cases k with
    | cold => exact (congrArg PathRec.score (PerPath.get_map _ _ p)).trans (restarted_score _ _)
    | warm => exact (congrArg PathRec.score (PerPath.get_map _ _ p)).trans (restarted_score _ _)
  rw [hscore]
  exact Nat.zero_le _

omit low in
theorem reset_low : LowScores State.reset.roads := by
  intro p
  cases p <;> exact Nat.zero_le _

theorem replyLeft_low (r : Reply) : LowScores (replyLeft r s).roads := by
  unfold replyLeft
  repeat' split
  · exact low
  · exact restartEffect_low _ _
  · exact low

theorem deliverLeft_low : LowScores (deliverLeft s).roads := by
  unfold deliverLeft
  split
  · rw [deliveredTo, requestAck_roads, updConv_roads]
    exact low
  · exact low

theorem afterCompletion_low : LowScores (afterCompletion s).roads := intake_low _ (afterEvent_low low)

theorem replyDone_low : LowScores (replyDone s).roads := by
  unfold replyDone
  split
  · exact afterCompletion_low (replyLeft_low low _)
  · exact low

theorem deliverDone_low : LowScores (deliverDone s).roads := by
  unfold deliverDone
  split
  · exact afterCompletion_low (deliverLeft_low (s := endOut s) low)
  · exact low

theorem noticeDone_low : LowScores (noticeDone s).roads := by
  unfold noticeDone
  split
  · exact afterCompletion_low (s := endOut s) low
  · exact low

theorem frameLeft_low (p : Path) : LowScores (frameLeft p s).roads := by
  unfold frameLeft
  simp only
  repeat' split
  · exact low
  · exact low_of_paths (updPath_keeps_low low p _ (by intro _; rfl)) (chooseOut_paths _)
  · exact afterEvent_low (updPath_keeps_low low p _ (by intro _; rfl))

/-! ## Commands and steps -/

theorem event_low {f : State → State} (hf : LowScores (f s).roads) : LowScores (event f s).roads := by
  unfold event
  split
  · exact low
  · exact afterEvent_low hf

/-- Every command keeps the scores within the bound: the starts begin them at 0, frames, timers and samples clamp them, and
the rest of the host link hands them to the owner of a request. -/
theorem exec_low {c : Instr} {t : State} (h : exec c s = .next t) : LowScores t.roads := by
  cases c <;> cases h
  case powerOn | resetAssert => exact low_of_paths reset_low rfl
  case replyCompletion => exact replyDone_low low
  case deliverCompletion => exact deliverDone_low low
  case noticeCompletion => exact noticeDone_low low
  case frameCompletion p => exact frameLeft_low low p
  case octetArrival o => exact octetArrived_low low o
  case frameCheckFailure p l => exact event_low low (receiveOctets_low low p l)
  case dataReceived | ackReceived | waitReceived | inquiryReceived | answerReceived | openReceived | openReplyReceived |
      closeReceived | closeReplyReceived | abandonReceived | probeReceived | echoReceived =>
    exact event_low low (receive_low low _ _ _)
  case lineSample p b => exact event_low low (lineSampled_low low p b)
  case alarmSample p b => exact event_low low (alarmSampled_low low p b)
  case settleExpiry p => exact event_low low (settleEnds_low low p)
  case probeRound p => exact event_low low (probeRoundEnds_low low p)
  case ackTimerExpiry h => exact event_low low (ackTimerEnds_low low h)
  case inquiryTimerExpiry h => exact event_low low (inquiryTimerEnds_low low h)
  case closeTimerExpiry h => exact event_low low (closeTimerEnds_low low h)
  case slotInquiryExpiry k => exact event_low low (slotInquiryEnds_low low k)
  case waitPauseExpiry | openTimerExpiry | holdExpiry | parkExpiry | holdOffExpiry =>
    exact event_low low (by simpa using low)
  all_goals exact hostRecord_low low _

/-- A step keeps the scores within the bound, whether it runs a command or lets a microsecond pass. -/
theorem step_low {t : State} (h : step s = .next t) : LowScores t.roads := by
  unfold step at h
  split at h
  · cases h
    unfold idle
    split
    · exact low
    · exact afterEvent_low (s := { s with stc := { s.stc with time := s.stc.time + 1 } }) low
  · rename_i rest _
    exact exec_low (s := { s with pending := rest }) low h

end

/-- Settles O5: every step keeps the bound, read where the transmit queues do not count. -/
theorem everyStepKeepsTheScoresBounded : Obligations.EveryStepKeepsTheScoresBounded := fun s t hs h =>
  (scoresBounded_iff t).2 (step_low ((scoresBounded_iff s).1 hs) h)

end Sys2Proof.Machine
end

section
/-! PROOFS. A shift, a loss of service and a quench touch neither the Retention Store nor the delivery queue: a lapse keeps its
cells, and only a record that becomes VACANT or settles gives up what it holds there (R1, R21, R27, R54). -/

namespace Sys2Proof.Machine

/-- The Retention Store and the delivery queue. -/
def State.stores (s : State) : Rts × Dlq := (s.rts, s.dlq)

theorem State.stores_rts {s t : State} (h : t.stores = s.stores) : t.rts = s.rts := congrArg Prod.fst h
theorem State.stores_dlq {s t : State} (h : t.stores = s.stores) : t.dlq = s.dlq := congrArg Prod.snd h

/-! ## Updates of the other blocks -/

@[simp] theorem setConv_stores (h : Nat) (c : Conv) (s : State) : (setConv h c s).stores = s.stores := rfl
@[simp] theorem updPath_stores (p : Path) (f : PathRec → PathRec) (s : State) : (updPath p f s).stores = s.stores := rfl
@[simp] theorem setSlot_stores (k : Nat) (v : Slot) (s : State) : (setSlot k v s).stores = s.stores := rfl
@[simp] theorem freeSlot_stores (k : Nat) (s : State) : (freeSlot k s).stores = s.stores := rfl
@[simp] theorem raiseConv_stores (h : Nat) (r : Reason) (s : State) : (raiseConv h r s).stores = s.stores := rfl
@[simp] theorem raisePath_stores (p : Path) (r : Reason) (s : State) : (raisePath p r s).stores = s.stores := rfl
@[simp] theorem withdrawClass2_stores (h : Nat) (p : Path) (s : State) : (withdrawClass2 h p s).stores = s.stores := rfl
@[simp] theorem withdrawInquiry_stores (h : Nat) (p : Path) (s : State) : (withdrawInquiry h p s).stores = s.stores := rfl

theorem forEach_stores {α : Type} (l : List α) (f : α → State → State) (s : State)
    (hf : ∀ a t, (f a t).stores = t.stores) : (forEach l f s).stores = s.stores :=
  forEach_keeps (fun t => t.stores = s.stores) f (fun a t h => (hf a t).trans h) l s rfl

@[simp] theorem updConv_stores (h : Nat) (f : Conv → Conv) (s : State) : (updConv h f s).stores = s.stores := by
  unfold updConv
  split <;> rfl

/-! ## Shifts (07) -/

@[simp] theorem queueSlotInquiry_stores (sl : Slot) (c : Conv) (p : Path) (s : State) :
    (queueSlotInquiry sl c p s).stores = s.stores := by
  unfold queueSlotInquiry queueOpt
  split <;> rfl

@[simp] theorem park_stores (h : Nat) (s : State) : (park h s).stores = s.stores := updConv_stores h _ s

@[simp] theorem chooseCore_stores (k : Nat) (s : State) : (chooseCore k s).stores = s.stores := by
  unfold chooseCore
  (repeat' split) <;> simp

/-- The records that a lapse makes UNSURE keep their cells (R21, R48). -/
@[simp] theorem lapseCore_stores (h : Nat) (why : LapseReason) (s : State) : (lapseCore h why s).stores = s.stores := by
  unfold lapseCore
  (repeat' split) <;> rfl

@[simp] theorem applyStaged_stores (h : Nat) (c : Conv) (s : State) : (applyStaged h c s).stores = s.stores := by
  unfold applyStaged
  split <;> rfl

@[simp] theorem grant_stores (k h : Nat) (s : State) : (grant k h s).stores = s.stores := by
  unfold grant
  (repeat' split) <;> simp

theorem grants_stores : ∀ (n : Nat) (s : State), (grants n s).stores = s.stores
  | 0, _ => rfl
  | n + 1, s => by
    unfold grants
    split
    · exact (grants_stores n _).trans (grant_stores _ _ _)
    · rfl

@[simp] theorem enterQueue_stores (h : Nat) (s : State) : (enterQueue h s).stores = s.stores := by
  have hjoin : (joinQueue h s).stores = s.stores := by
    unfold joinQueue
    split <;> rfl
  exact (grants_stores _ _).trans hjoin

@[simp] theorem choose_stores (k : Nat) (s : State) : (choose k s).stores = s.stores :=
  (grants_stores _ _).trans (chooseCore_stores k s)

@[simp] theorem shiftCause_stores (a : Bool) (h : Nat) (s : State) : (shiftCause a h s).stores = s.stores := by
  unfold shiftCause
  (repeat' split) <;> simp

/-! ## Leaving service and quenches (4.6, 05) -/

@[simp] theorem replaceAck_stores (f : QFrame) (s : State) : (replaceAck f s).stores = s.stores := by
  unfold replaceAck placeAck queueOpt
  (repeat' split) <;> rfl

@[simp] theorem dropCandidate_stores (k : Nat) (s : State) : (dropCandidate k s).stores = s.stores := by
  unfold dropCandidate
  (repeat' split) <;> simp

theorem dropCandidates_stores (p : Path) (peer : Option Nat) (s : State) : (dropCandidates p peer s).stores = s.stores :=
  forEach_stores _ _ s fun k t => by split <;> simp

@[simp] theorem leaveService_stores (p : Path) (acks : List QFrame) (s : State) :
    (leaveService p acks s).stores = s.stores :=
  (forEach_stores _ _ _ replaceAck_stores).trans
    ((dropCandidates_stores p none _).trans (forEach_stores _ _ s (shiftCause_stores true)))

theorem quenchOne_stores (p : Path) (why : Cause) (s : State) : (quenchOne p why s).stores = s.stores := by
  unfold quenchOne
  split <;> simp

theorem enterQuench_stores : ∀ (n : Nat) (p : Path) (why : Cause) (s : State), (enterQuench n p why s).stores = s.stores
  | 0, _, _, _ => rfl
  | n + 1, p, why, s => by
    rw [enterQuench_succ, forEach_stores, quenchOne_stores]
    intro q t
    split
    · exact enterQuench_stores n q .companion t
    · rfl

end Sys2Proof.Machine
end

section
/-! PROOFS. REMOVE PEER on a ready link. -/

namespace Sys2Proof.Machine

/-! ## A peer that no conversation names (R111) -/

theorem convsOfPeer_eq_zero_iff (s : State) (k : Nat) :
    s.convsOfPeer k = 0 ↔ ∀ h c, s.conv h = some c → c.peer ≠ k := by
  simp only [State.convsOfPeer, List.length_eq_zero_iff, List.filter_eq_nil_iff, mem_handles, decide_eq_true_eq]
  constructor
  · intro hnone h c hc hk
    exact hnone h ⟨c, hc⟩ (by simp [hc, hk])
  · rintro hnone h ⟨c, hc⟩
    simpa [hc] using hnone h c hc

/-! ## The PEER-ALL tests of a removal (R97, R111 item 2) -/

/-- State `t` differs from `s` in the records, the paths, the shift engine and the notices alone: what a quench may touch. -/
structure KeptByTests (s t : State) : Prop where
  prt : t.prt = s.prt
  stores : t.stores = s.stores
  outer : t.outer = s.outer

theorem KeptByTests.refl (s : State) : KeptByTests s s := ⟨rfl, rfl, rfl⟩

theorem KeptByTests.trans {s t u : State} (h : KeptByTests s t) (k : KeptByTests t u) : KeptByTests s u :=
  ⟨k.prt.trans h.prt, k.stores.trans h.stores, k.outer.trans h.outer⟩

theorem PeerAllTested.keeps {p : Path} {among : Nat → Prop} {s u : State} (h : PeerAllTested p among s u) :
    KeptByTests s u := by
  by_cases hq : PeerAllOver s p among ∧ (s.path p).state.live = true ∧ .peerAll ∈ (s.path p).sources
  · obtain ⟨hover, hlive, hsource⟩ := hq
    rw [h.1 hover hlive hsource]
    exact ⟨quenchPath_prt .., enterQuench_stores .., quenchPath_outer ..⟩
  · rw [h.2 (by rwa [not_and_or, not_and_or, Bool.not_eq_true] at hq)]
    exact .refl s

/-- What R111 item 2 says of one path: the PEER-ALL condition tested over the entries that remain, where the entry had a link
address and was not UNREACHABLE. -/
def RemovalTested (k : Nat) (e : Peer) (p : Path) (s u : State) : Prop :=
  ((e.links.get p).link ≠ none → (e.links.get p).reach ≠ .unreachable → PeerAllTested p (fun j => j ≠ k) s u) ∧
    (((e.links.get p).link = none ∨ (e.links.get p).reach = .unreachable) → u = s)

theorem removalTest_tested (k : Nat) (e : Peer) (p : Path) (s : State) : RemovalTested k e p s (removalTest k e p s) := by
  unfold removalTest
  constructor
  · intro hlink hreach
    have htest := peerAllTested_of_test s p (fun j => decide (j ≠ k)) (fun j => j ≠ k) (fun j => by simp)
    simpa [Option.isSome_iff_ne_none.2 hlink, hreach] using htest
  · rintro (hlink | hreach)
    · simp [hlink]
    · simp [hreach]

theorem RemovalTested.keeps {k : Nat} {e : Peer} {p : Path} {s u : State} (h : RemovalTested k e p s u) :
    KeptByTests s u := by
  by_cases hl : (e.links.get p).link = none ∨ (e.links.get p).reach = .unreachable
  · rw [h.2 hl]
    exact .refl s
  · obtain ⟨hlink, hreach⟩ := not_or.1 hl
    exact (h.1 hlink hreach).keeps

/-- The tests on all four paths, whatever they quench. -/
theorem removalTests_keep (k : Nat) (e : Peer) (s : State) : KeptByTests s (forEach Path.all (removalTest k e) s) :=
  forEach_keeps (KeptByTests s) (removalTest k e) (fun p t h => h.trans (removalTest_tested k e p t).keeps) Path.all s
    (.refl s)

/-- An operation for each path is four steps, P0 to P3. -/
theorem forEach_pathAll_steps (f : Path → State → State) (s : State) :
    ∃ u1 u2 u3, ∀ p x y,
      (p, x, y) ∈ [(Path.p0, s, u1), (.p1, u1, u2), (.p2, u2, u3), (.p3, u3, forEach Path.all f s)] → y = f p x := by
  refine ⟨f .p0 s, f .p1 (f .p0 s), f .p2 (f .p1 (f .p0 s)), fun p x y hstep => ?_⟩
  simp only [List.mem_cons, Prod.mk.injEq, List.not_mem_nil, or_false] at hstep
  obtain ⟨rfl, rfl, rfl⟩ | ⟨rfl, rfl, rfl⟩ | ⟨rfl, rfl, rfl⟩ | ⟨rfl, rfl, rfl⟩ := hstep
  all_goals rfl

/-! ## The request -/

/-- The reply of REMOVE PEER on a ready link is its owner's. -/
theorem removePeer_replies {tag k : Nat} {s t : State} {res : Result} (hwf : (Instr.removePeer tag k).wellFormed = true)
    (hs : s.ready) (ha : ownRemovePeer k s.hunting = ⟨t, res, []⟩) : RepliesWith (.removePeer tag k) s tag 12 res [] t := by
  have hfits : (Request.removePeer k).fits = true := by
    simp only [Instr.wellFormed, Bool.and_eq_true] at hwf
    exact hwf.2
  exact repliesWith_of_own (r := .removePeer k) rfl hfits hs ha

/-- The checks of REMOVE PEER, in their order (R111). -/
theorem ownRemovePeer_cases (k : Nat) (s : State) :
    (32 ≤ k → ownRemovePeer k s = refuse s .badHandle) ∧
    (k < 32 → s.peer k = none → ownRemovePeer k s = refuse s .noPeer) ∧
    ∀ e, k < 32 → s.peer k = some e →
      ((∃ h c, s.conv h = some c ∧ c.peer = k) → ownRemovePeer k s = refuse s .inUse) ∧
      ((∀ h c, s.conv h = some c → c.peer ≠ k) →
        ownRemovePeer k s = ⟨erasePeer k (forEach Path.all (removalTest k e) (withdrawProbes e.node s)), .done, []⟩) := by
  have hslots : Config.peerSlots = 32 := rfl
  unfold ownRemovePeer
  rw [hslots]
  refine ⟨fun hk => if_neg (Nat.not_lt.2 hk), fun hk hp => ?_, fun e hk hp => ⟨?_, fun hfree => ?_⟩⟩
  · rw [if_pos hk, hp]
  · rintro ⟨h, c, hc, hck⟩
    have hused : s.convsOfPeer k ≠ 0 := fun h0 => (convsOfPeer_eq_zero_iff s k).1 h0 h c hc hck
    rw [if_pos hk, hp]
    exact if_pos hused
  · have hunused : ¬ s.convsOfPeer k ≠ 0 := not_not.2 ((convsOfPeer_eq_zero_iff s k).2 hfree)
    rw [if_pos hk, hp]
    exact if_neg hunused

/-- The removal of an entry that no conversation names, as its steps: the PROBE frames leave, the four tests follow, and the
slot and its pending reasons go (R111). -/
theorem removePeer_removes {tag k : Nat} {s : State} {e : Peer} (hwf : (Instr.removePeer tag k).wellFormed = true)
    (hs : s.ready) (hk : k < 32) (he : s.peer k = some e) (hfree : ∀ h c, s.conv h = some c → c.peer ≠ k) :
    RepliesWith (.removePeer tag k) s tag 12 .done []
      (erasePeer k (forEach Path.all (removalTest k e) (withdrawProbes e.node s.hunting))) :=
  removePeer_replies hwf hs (((ownRemovePeer_cases k s.hunting).2.2 e hk he).2 hfree)

theorem erasePeer_peer (k : Nat) (s : State) : (erasePeer k s).peer k = none :=
  (KMap.get?_erase s.prt.peers k k).trans (if_pos rfl)

theorem erasePeer_reasons (k : Nat) (s : State) : reasonsAt (erasePeer k s).ntu.peers k = [] := by
  unfold reasonsAt erasePeer clearPeerReasons
  rw [KMap.get?_erase, if_pos rfl]
  rfl

/-- Settles O25: the checks are taken in the order of `ownRemovePeer`, and past them the removal is its steps, of which the
tests can quench paths but leave the peer table, the stores and the host link. -/
theorem removePeerRemovesAnUnusedEntry : Obligations.RemovePeerRemovesAnUnusedEntry := by
  refine ⟨fun tag k s hwf hs => ?_, fun tag k s e hwf hs hk he hfree => ?_⟩
  · obtain ⟨hbad, hnone, hsome⟩ := ownRemovePeer_cases k s.hunting
    refine ⟨fun hk => removePeer_replies hwf hs (hbad hk), fun hk hp => removePeer_replies hwf hs (hnone hk hp),
      fun hk hp hused => ?_, fun hk hp hfree => ?_⟩
    · obtain ⟨e, he⟩ := Option.ne_none_iff_exists'.1 hp
      exact removePeer_replies hwf hs ((hsome e hk he).1 hused)
    · obtain ⟨e, he⟩ := Option.ne_none_iff_exists'.1 hp
      have hstc := State.outer_stc (removalTests_keep k e (withdrawProbes e.node s.hunting)).outer
      exact ⟨_, removePeer_removes hwf hs hk he hfree, erasePeer_peer k _, erasePeer_reasons k _, hstc⟩
  · have hremoved := removePeer_removes hwf hs hk he hfree
    obtain ⟨hprt, hstores, houter⟩ := removalTests_keep k e (withdrawProbes e.node s.hunting)
    have hstc := State.outer_stc houter
    obtain ⟨u1, u2, u3, hsteps⟩ := forEach_pathAll_steps (removalTest k e) (withdrawProbes e.node s.hunting)
    refine ⟨_, u1, u2, u3, _, rfl, fun p x y hmem => ?_, hprt, State.stores_rts hstores, State.stores_dlq hstores, hstc,
      State.outer_hlu houter, ?_⟩
    · rw [hsteps p x y hmem]
      exact removalTest_tested k e p x
    · unfold erasePeer clearPeerReasons at hremoved
      rwa [hprt] at hremoved

end Sys2Proof.Machine
end

section
/-! PROOFS. ADD PEER on a ready link: the node id, the admission list and the values that its checks accept, and the entry that
it writes. -/

namespace Sys2Proof.Machine

/-! ## The admission list (R110 check 3) -/

theorem pathsOfNums_eq_none {l : List Nat} : pathsOfNums l = none ↔ ¬ ∀ n ∈ l, n ≤ 3 := by
  rw [Option.eq_none_iff_forall_ne_some]
  constructor
  · intro hnone hle
    obtain ⟨ps, hps, -⟩ := pathsOfNums_of_le hle
    exact hnone ps hps
  · intro hbad ps hps
    refine hbad fun n hn => ?_
    rw [← pathsOfNums_eq_some.1 hps, List.mem_map] at hn
    obtain ⟨q, -, hq⟩ := hn
    exact exists_num_eq.1 ⟨q, hq⟩

theorem preferenceList_eq_none {l : List Nat} :
    preferenceList l = none ↔ ¬ (1 ≤ l.length ∧ l.length ≤ 4 ∧ l.Nodup ∧ ∀ n ∈ l, n ≤ 3) := by
  unfold preferenceList
  split
  · rename_i hok
    simp only [Bool.and_eq_true, inRange_iff, decide_eq_true_eq] at hok
    obtain ⟨⟨hlow, hhigh⟩, hnodup⟩ := hok
    simp [pathsOfNums_eq_none, hlow, hhigh, hnodup]
  · rename_i hbad
    simp only [Bool.and_eq_true, inRange_iff, decide_eq_true_eq] at hbad
    exact iff_of_true rfl fun ⟨hlow, hhigh, hnodup, _⟩ => hbad ⟨⟨hlow, hhigh⟩, hnodup⟩

/-- An accepted list names the paths whose numbers it gives. -/
theorem map_num_of_preferenceList {l : List Nat} {ps : List Path} (h : preferenceList l = some ps) :
    ps.map Path.num = l := by
  unfold preferenceList at h
  split at h
  · exact pathsOfNums_eq_some.1 h
  · cases h

theorem admissionList_given {a : AddPeerArgs} {l : List Nat} (hl : a.list = some l) :
    admissionList a = (preferenceList l).map some := by
  unfold admissionList
  rw [hl]

/-- With no list given the flag ON wants a path with a link address; the list is the paths that have one. -/
theorem admissionList_default {a : AddPeerArgs} (hl : a.list = none) :
    admissionList a =
      if linkedPaths a.links = [] then (if a.flag = some 1 then none else some none)
      else some (some (linkedPaths a.links)) := by
  unfold admissionList
  rw [hl]
  cases linkedPaths a.links <;> rfl

/-! ## The values (R110 check 4) -/

theorem linkOk_iff (o : Option LinkAddr) : linkOk o = true ↔ ∀ x, o = some x → x ≠ 0#48 ∧ x.getLsbD 40 = false := by
  cases o <;> simp [linkOk]

theorem all_toList_iff {α : Type} (t : PerPath α) (f : α → Bool) : t.toList.all f = true ↔ ∀ p, f (t.get p) = true := by
  simp [PerPath.mem_toList]

theorem addPeerValuesOk_iff (a : AddPeerArgs) :
    addPeerValuesOk a = true ↔
      (∀ p x, a.links.get p = some x → x ≠ 0#48 ∧ x.getLsbD 40 = false) ∧ (∀ v ∈ a.flag, v = 0 ∨ v = 1) ∧
        (∀ v ∈ a.cap, 1 ≤ v ∧ v ≤ 64) ∧ (∀ v ∈ a.ackInterval, 10 ≤ v ∧ v ≤ 2000) ∧ (∀ v ∈ a.retryLimit, v ≤ 7) ∧
        ∀ v ∈ a.holdOff, v ≤ 250 := by
  simp only [addPeerValuesOk, Bool.and_eq_true, all_toList_iff, linkOk_iff, optOnOff_iff, settingsOk_iff, and_assoc]

/-- A flag that is ON or OFF or absent is ON where it is given as 1. -/
theorem onOffOr_false {o : Option Nat} (ho : ∀ v ∈ o, v = 0 ∨ v = 1) : onOffOr false o = decide (o = some 1) := by
  cases o with
  | none => rfl
  | some v =>
    obtain rfl | rfl := ho v rfl
    · rfl
    · rfl

/-! ## The node id (R110 check 2) -/

theorem nodeFree_iff (s : State) (n : Nat) : s.nodeFree n = true ↔
    1 ≤ n ∧ n ≤ 65534 ∧ n ≠ s.stc.nodeId ∧ ∀ j e, s.peer j = some e → e.node ≠ n := by
  have hslots : (s.peerSlots.all fun k => decide ((s.peer k).map Peer.node ≠ some n)) = true ↔
      ∀ j e, s.peer j = some e → e.node ≠ n := by
    simp only [List.all_eq_true, mem_peerSlots, decide_eq_true_eq]
    constructor
    · intro h j e he
      simpa [he] using h j ⟨e, he⟩
    · rintro h j ⟨e, he⟩
      simpa [he] using h j e he
  simp only [State.nodeFree, Bool.and_eq_true, inRange_iff, decide_eq_true_eq, hslots, and_assoc]

/-! ## The request -/

/-- The checks of ADD PEER, in their order, and the entry written past them (R110). -/
theorem ownAddPeer_eq {s : State} {k : Nat} (hk : KMap.lowestFree s.prt.peers Config.peerSlots = some k)
    (a : AddPeerArgs) :
    (s.nodeFree a.node = false → ownAddPeer a s = refuse s .badValue) ∧
    (s.nodeFree a.node = true → admissionList a = none → ownAddPeer a s = refuse s .badList) ∧
    ∀ list, s.nodeFree a.node = true → admissionList a = some list →
      (addPeerValuesOk a = false → ownAddPeer a s = refuse s .badValue) ∧
      (addPeerValuesOk a = true → ownAddPeer a s = ⟨setPeer k (newPeer a list) s, .done, octetsOf 1 k⟩) := by
  unfold ownAddPeer
  rw [hk]
  refine ⟨fun hnode => ?_, fun hnode hlist => ?_, fun list hnode hlist => ⟨fun hv => ?_, fun hv => ?_⟩⟩
  · simp [hnode]
  · simp [hnode, hlist]
  · simp [hnode, hlist, hv]
  · simp [hnode, hlist, hv]

theorem newPeer_link (a : AddPeerArgs) (list : Option (List Path)) (p : Path) :
    (newPeer a list).links.get p =
      { link := a.links.get p, reach := .unknown, miss := 0, heard := false, lastHeard := none } :=
  PerPath.get_map freshLink a.links p

/-- The reply of ADD PEER on a ready link is its owner's. -/
theorem addPeer_replies {tag : Nat} {a : AddPeerArgs} {s t : State} {res : Result} {l : List Byte}
    (hwf : (Instr.addPeer tag a).wellFormed = true) (hs : s.ready) (ha : ownAddPeer a s.hunting = ⟨t, res, l⟩) :
    RepliesWith (.addPeer tag a) s tag 11 res l t := by
  have hfits : (Request.addPeer a).fits = true := by
    simp only [Instr.wellFormed, Bool.and_eq_true] at hwf
    exact hwf.2
  exact repliesWith_of_own (r := .addPeer a) rfl hfits hs ha

/-- Settles O24: the checks are taken in the order of `ownAddPeer`, each by what it accepts, and past them the entry is
`newPeer` in the lowest free slot. -/
theorem addPeerIsCheckedAndAccepted : Obligations.AddPeerIsCheckedAndAccepted := by
  refine ⟨fun a => ⟨addPeerValuesOk_iff a, fun l hl => ?_, fun d hl hd => ?_⟩, fun tag a s hwf hs => ?_⟩
  · rw [admissionList_given hl]
    refine ⟨Option.map_eq_none_iff.trans preferenceList_eq_none, fun r hr => ?_⟩
    obtain ⟨ps, hps, rfl⟩ := Option.map_eq_some_iff.1 hr
    exact ⟨ps, rfl, map_num_of_preferenceList hps⟩
  · rw [admissionList_default hl, show linkedPaths a.links = d from hd.symm]
    exact ⟨fun h0 hon => by rw [if_pos h0, if_pos hon], fun h0 hoff => by rw [if_pos h0, if_neg hoff], fun h0 => if_neg h0⟩
  · have hreply : ∀ {t res l}, ownAddPeer a s.hunting = ⟨t, res, l⟩ → RepliesWith (.addPeer tag a) s tag 11 res l t :=
      addPeer_replies hwf hs
    have hnode := nodeFree_iff s.hunting a.node
    split
    · rename_i hfull
      have hfull' : KMap.lowestFree s.hunting.prt.peers Config.peerSlots = none := hfull
      exact hreply (by unfold ownAddPeer; rw [hfull']; rfl)
    · rename_i k hk
      obtain ⟨hbadNode, hbadList, hlisted⟩ := ownAddPeer_eq (s := s.hunting) hk a
      refine ⟨fun hbad => hreply (hbadNode ?_), fun hlow hhigh hown hnew => ?_⟩
      · rw [Bool.eq_false_iff, Ne, hnode]
        rintro ⟨hlow, hhigh, hown, hnew⟩
        obtain hlt | hlt | heq | ⟨j, e, he, heq⟩ := hbad
        · omega
        · omega
        · exact hown heq
        · exact hnew j e he heq
      · have hfree : s.hunting.nodeFree a.node = true := hnode.2 ⟨hlow, hhigh, hown, hnew⟩
        split
        · rename_i hlist
          exact hreply (hbadList hfree hlist)
        · rename_i list hlist
          obtain ⟨hbadValue, hdone⟩ := hlisted list hfree hlist
          split
          · rename_i hv
            exact hreply (hbadValue hv)
          · rename_i hv
            rw [Bool.not_eq_false] at hv
            obtain ⟨-, hflag, -⟩ := (addPeerValuesOk_iff a).1 hv
            exact ⟨newPeer a list, hreply (hdone hv), rfl, newPeer_link a list, onOffOr_false hflag, rfl, rfl, rfl, rfl,
              rfl⟩

end Sys2Proof.Machine
end

section
/-! PROOFS. The expiries of a shift slot: the candidate it chooses, the INQUIRY it sends there, what giving a candidate up and
losing one do, and the marking of a peer. -/

namespace Sys2Proof.Machine

/-! ## The candidate (R133) -/

section
variable (s : State) (c : Conv) (tried : List Path)

theorem shiftOk_iff (p : Path) : s.shiftOk c tried p = true ↔ p ∉ tried ∧ p ∈ c.prefs ∧ s.usable c.peer p = true := by
  simp [State.shiftOk, and_assoc]

/-- The first path of the list that the shift may take in a state of service. -/
def State.firstIn (st : PathState) : Option Path :=
  c.prefs.find? fun q => decide (q ∉ tried) && s.usable c.peer q && decide ((s.path q).state = st)

theorem firstIn_eq (st : PathState) :
    c.prefs.find? (fun q => s.shiftOk c tried q && decide ((s.path q).state = st)) = s.firstIn c tried st := by
  unfold State.firstIn
  refine List.find?_congr fun q hq => ?_
  simp [State.shiftOk, hq]

variable {s c tried}

theorem firstIn_some {st : PathState} {p : Path} (h : s.firstIn c tried st = some p) :
    s.shiftOk c tried p = true ∧ (s.path p).state = st := by
  rw [← firstIn_eq] at h
  simpa using List.find?_some h

theorem firstIn_none {st : PathState} (h : s.firstIn c tried st = none) {q : Path} (hq : s.shiftOk c tried q = true) :
    (s.path q).state ≠ st := by
  rw [← firstIn_eq, List.find?_eq_none] at h
  have hprefs := ((shiftOk_iff s c tried q).1 hq).2.1
  simpa [hq] using h q hprefs

theorem candidate_forced {f : Path} (hf : c.forced = some f) (hok : s.shiftOk c tried f = true) :
    s.candidate c tried = some f := by
  simp [State.candidate, hf, Option.filter, hok]

/-- Without a forced target that can be taken the first SOUND path stands before the first SUSPECT one (R133). -/
theorem candidate_unforced (hf : ∀ f, c.forced = some f → s.shiftOk c tried f = false) :
    s.candidate c tried = (s.firstIn c tried .sound).or (s.firstIn c tried .suspect) := by
  have hnone : c.forced.filter (s.shiftOk c tried) = none := by
    rw [Option.filter_eq_none_iff]
    exact fun f hfo => by simp [hf f hfo]
  unfold State.candidate
  rw [hnone, firstIn_eq, firstIn_eq]
  cases s.firstIn c tried .sound <;> rfl

/-- A forced target is taken, or stands in the way of none. -/
theorem forced_cases (s : State) (c : Conv) (tried : List Path) :
    (∃ f, c.forced = some f ∧ s.shiftOk c tried f = true) ∨ ∀ f, c.forced = some f → s.shiftOk c tried f = false := by
  by_cases h : ∃ f, c.forced = some f ∧ s.shiftOk c tried f = true
  · exact .inl h
  · exact .inr fun f hf => Bool.eq_false_iff.2 fun hok => h ⟨f, hf, hok⟩

theorem shiftOk_false_iff {p : Path} :
    s.shiftOk c tried p = false ↔ p ∈ tried ∨ p ∉ c.prefs ∨ s.usable c.peer p = false := by
  rw [Bool.eq_false_iff, Ne, shiftOk_iff, not_and_or, not_and_or, not_not, Bool.not_eq_true]

theorem candidate_ok {p : Path} (h : s.candidate c tried = some p) : s.shiftOk c tried p = true := by
  obtain ⟨f, hf, hok⟩ | hf := forced_cases s c tried
  · rw [candidate_forced hf hok] at h
    cases h
    exact hok
  · rw [candidate_unforced hf, Option.or_eq_some_iff] at h
    obtain h | ⟨-, h⟩ := h
    · exact (firstIn_some h).1
    · exact (firstIn_some h).1

/-- A SUSPECT path is chosen unforced only where every path that can be taken is SUSPECT (R133). -/
theorem candidate_suspect {p q : Path} (hf : ∀ f, c.forced = some f → s.shiftOk c tried f = false)
    (h : s.candidate c tried = some p) (hp : (s.path p).state = .suspect) (hq : s.shiftOk c tried q = true) :
    (s.path q).state = .suspect := by
  rw [candidate_unforced hf, Option.or_eq_some_iff] at h
  obtain h | ⟨hnone, -⟩ := h
  · have hsound := (firstIn_some h).2
    rw [hp] at hsound
    cases hsound
  · obtain ⟨-, -, husable⟩ := (shiftOk_iff s c tried q).1 hq
    exact ((usable_iff s c.peer q).1 husable).1.resolve_left (firstIn_none hnone hq)

theorem candidate_none_iff : s.candidate c tried = none ↔ ∀ p, s.shiftOk c tried p = false := by
  constructor
  · intro h p
    obtain ⟨f, hf, hok⟩ | hf := forced_cases s c tried
    · rw [candidate_forced hf hok] at h
      cases h
    · rw [candidate_unforced hf, Option.or_eq_none_iff] at h
      obtain ⟨hsound, hsuspect⟩ := h
      refine Bool.eq_false_iff.2 fun hok => ?_
      obtain ⟨-, -, husable⟩ := (shiftOk_iff s c tried p).1 hok
      obtain hp | hp := ((usable_iff s c.peer p).1 husable).1
      · exact firstIn_none hsound hok hp
      · exact firstIn_none hsuspect hok hp
  · intro h
    rw [Option.eq_none_iff_forall_ne_some]
    intro p hp
    exact Bool.false_ne_true ((h p).symm.trans (candidate_ok hp))

end

/-! ## The choice of a slot (R133 to R135) -/

/-- A slot that begins to inquire on a candidate, its timer at a station time: the void is read at the end of the hold-off. -/
def Slot.inquiringOn (sl : Slot) (c : Conv) (p : Path) (t : Nat) : Slot :=
  { sl with
    phase := .inquiring, candidate := some p, attempt := some 1,
    void := if sl.phase = .holdOff then (sentSingle c.journal).map JRec.seq else sl.void,
    timer := some t }

/-- A slot that lost its candidate, which joins the tried set (R136, R137). -/
def Slot.without (sl : Slot) (p : Path) : Slot :=
  { sl with tried := insertIn Path.all p sl.tried, candidate := none, attempt := none, timer := none }

section
variable {s : State} {k : Nat} {sl : Slot} {c : Conv}

theorem choose_inquires {p : Path} (hsl : s.slot k = some sl) (hc : s.conv sl.handle = some c)
    (hp : s.candidate c sl.tried = some p) :
    choose k s =
      grantAll (queueSlotInquiry (sl.inquiringOn c p (s.stc.time + s.stc.inquiryTimeout * 1000)) c p
        (setSlot k (sl.inquiringOn c p (s.stc.time + s.stc.inquiryTimeout * 1000)) s)) := by
  unfold choose chooseCore
  simp only [hsl, hc, hp]
  unfold Slot.inquiringOn
  cases sl.phase <;> rfl

theorem choose_parks (hsl : s.slot k = some sl) (hc : s.conv sl.handle = some c) (hp : s.candidate c sl.tried = none) :
    choose k s = grantAll (park sl.handle (freeSlot k s)) := by
  unfold choose chooseCore
  simp only [hsl, hc, hp]

/-- The INQUIRY of a slot joins class 2 of its candidate once (R86, R135, log entry 11). -/
theorem queueSlotInquiry_linked {p : Path} {e : Peer} {a : LinkAddr} {f : QFrame} (he : s.peer c.peer = some e)
    (ha : (e.links.get p).link = some a)
    (hf : f = answerTo e a (some sl.handle) c.peerHandle sl.newShift (.inquiry sl.void) (some sl.handle)) :
    queueSlotInquiry sl c p s =
      s.withPath p { s.path p with
        class2 :=
          if f ∈ (s.path p).class2 ∨ 64 ≤ (s.path p).class2.length then (s.path p).class2
          else (s.path p).class2 ++ [f] } := by
  unfold queueSlotInquiry
  rw [frameTo_present he ha, ← hf]
  exact queue2_repeated p s (by rw [hf]; rfl) (by rw [hf]; rfl)

/-! ## A candidate given up or lost (R136, R137) -/

theorem giveUp_eq (hc : s.conv sl.handle = some c) (p : Path) :
    giveUp k sl p s = choose k (markPeer c.peer p (setSlot k (sl.without p) s)) := by
  have hkept : (setSlot k (sl.without p) s).conv sl.handle = some c := hc
  unfold Slot.without at hkept ⊢
  unfold giveUp
  simp only [hkept]

theorem dropCandidate_lost {p : Path} (hsl : s.slot k = some sl) (hp : sl.candidate = some p) :
    dropCandidate k s = choose k (setSlot k (sl.without p) (withdrawInquiry sl.handle p s)) := by
  unfold dropCandidate
  simp only [hsl, hp]
  rfl

theorem dropCandidate_idle (hsl : s.slot k = some sl) (hp : sl.candidate = none) : dropCandidate k s = s := by
  unfold dropCandidate
  simp only [hsl, hp]

theorem slotOn_iff (s : State) (p : Path) (peer : Option Nat) (k : Nat) : s.slotOn p peer k = true ↔
    ∃ sl, s.slot k = some sl ∧ sl.candidate = some p ∧
      ∀ n, peer = some n → ∃ c, s.conv sl.handle = some c ∧ c.peer = n := by
  unfold State.slotOn
  cases s.slot k with
  | none => simp
  | some sl => cases peer <;> simp

/-! ## The expiries (R133, R136) -/

theorem holdOffEnds_eq {x : Nat} (hsl : s.slot k = some sl) (hphase : sl.phase = .holdOff) (hx : sl.timer = some x) :
    holdOffEnds k s = choose k (s.atTime x) := by
  unfold holdOffEnds
  simp only [hsl, hphase, hx]
  rfl

theorem slotInquiryEnds_eq {x n : Nat} {p : Path} (hsl : s.slot k = some sl) (hphase : sl.phase = .inquiring)
    (hp : sl.candidate = some p) (hn : sl.attempt = some n) (hx : sl.timer = some x) :
    slotInquiryEnds k s = slotAction k sl p n (addScore p 16 (s.atTime x)) := by
  unfold slotInquiryEnds
  simp only [hsl, hphase, hp, hn, hx]
  rfl

/-- A slot after an unanswered attempt that is repeated, its timer at a station time (R136). -/
def Slot.repeated (sl : Slot) (n t : Nat) : Slot := { sl with attempt := some (n + 1), timer := some t }

theorem slotAction_repeats {n : Nat} (hsl : s.slot k = some sl) (hn : n < 3) (hc : s.conv sl.handle = some c) (p : Path) :
    slotAction k sl p n s =
      queueSlotInquiry (sl.repeated n (s.stc.time + s.stc.inquiryTimeout * 1000)) c p
        (setSlot k (sl.repeated n (s.stc.time + s.stc.inquiryTimeout * 1000)) s) := by
  unfold slotAction repeatAttempt
  rw [if_pos hsl, if_pos hn, hc]
  rfl

theorem slotAction_givesUp {n : Nat} (hsl : s.slot k = some sl) (hn : 3 ≤ n) (p : Path) :
    slotAction k sl p n s = giveUp k sl p s := by
  unfold slotAction
  rw [if_pos hsl, if_neg (Nat.not_lt.2 hn)]

/-- A slot that the attempt's own score has changed does nothing more (log entry 15). -/
theorem slotAction_changed (hsl : s.slot k ≠ some sl) (p : Path) (n : Nat) : slotAction k sl p n s = s := if_neg hsl

end

/-! ## The marking of a peer (R117, R119) -/

/-- Of two changes of the fields of an entry on a path the later one is made to what the earlier one left. -/
theorem updLink_updLink {s : State} {k : Nat} {e : Peer} (he : s.peer k = some e) (p : Path)
    (f g : PeerLink → PeerLink) : updLink k p g (updLink k p f s) = updLink k p (g ∘ f) s := by
  have hwritten : (updLink k p f s).peer k = some (e.onPath p f) := by
    rw [updLink_peer, if_pos rfl, he]
    rfl
  rw [updLink_eq k p g _ _ hwritten, updLink_eq k p f s e he, updLink_eq k p _ s e he, KMap.set_set]
  simp only [Peer.onPath, PerPath.set_set, PerPath.get_set_same]
  rfl

theorem testPeerAll_tested (p : Path) (s : State) : PeerAllTested p (fun _ => True) s (testPeerAll p s) := by
  have htest := peerAllTested_of_test s p (fun _ => true) (fun _ => True) fun _ => by simp
  rwa [List.filter_true] at htest

theorem activeFor_eq (s : State) (k : Nat) (p : Path) (h : Nat) :
    s.activeFor k p h = (s.conv h).any fun c => decide (c.active = some p) && decide (c.peer = k) := by
  unfold State.activeFor
  cases s.conv h <;> rfl

/-- The shift causes of a peer that becomes UNREACHABLE, and the report to the slots (R117 items 2 and 3), in a state `u`. -/
def State.toldUnreachable (s : State) (k : Nat) (p : Path) (u : State) : State :=
  dropCandidates p (some k)
    ((s.handles.filter fun h => (s.conv h).any fun c => decide (c.active = some p) && decide (c.peer = k)).foldl
      (fun t h => shiftCause true h t) u)

section
variable {s : State} {p : Path} {k : Nat} {e : Peer} (he : s.peer k = some e)
include he

theorem markPeer_idle (h : (e.links.get p).link = none ∨ (e.links.get p).reach = .unreachable) : markPeer k p s = s := by
  unfold markPeer
  rw [hasLink_eq s p k e he, reachOn_eq s p k e he]
  rcases h with h | h <;> simp [h]

/-- A marking that takes place: the entry is written once, and what follows from UNREACHABLE follows (R117, R119). -/
theorem markPeer_marks (hlink : (e.links.get p).link ≠ none) (hreach : (e.links.get p).reach ≠ .unreachable) :
    markPeer k p s =
      raisePeer k .reachability (testPeerAll p (s.toldUnreachable k p { s with prt := { s.prt with
        peers := KMap.set s.prt.peers k (e.onPath p fun l =>
          { l with miss := (s.path p).missLimit, heard := false, reach := .unreachable }) } })) := by
  have hmark : markPeer k p s =
      becomeUnreachable k p (updLink k p (fun l => { l with miss := (s.path p).missLimit, heard := false }) s) := by
    unfold markPeer
    rw [hasLink_eq s p k e he, reachOn_eq s p k e he]
    exact if_pos (by simp [Option.isSome_iff_ne_none.2 hlink, hreach])
  rw [hmark]
  unfold becomeUnreachable
  rw [updLink_updLink he, updLink_eq k p _ s e he]
  simp only [funext (activeFor_eq _ k p)]
  rfl

end

/-! ## The statement -/

/-- Settles O55: each expiry is the choice, the repeat or the giving up of its slot in the state at the expiry's time, and the
choice, the report and the marking are what their own rules say. -/
theorem slotTimersChooseAndInquire : Obligations.SlotTimersChooseAndInquire := by
  refine ⟨fun s k sl c hs hsl hc => ⟨fun x hphase hx => ?_, fun x p n w hphase hp hn hx hw => ?_,
    fun tried p hp => ?_, fun tried => ?_⟩, fun s c tried hf => ?_, fun s k sl c hsl hc => ⟨fun p z hp hz => ?_,
    choose_parks hsl hc, fun p e a f => queueSlotInquiry_linked, giveUp_eq hc,
    fun p => ⟨dropCandidate_lost hsl, dropCandidate_idle hsl⟩⟩,
    fun s k p e he => ⟨markPeer_idle he, fun hlink hreach => ?_⟩, fun s p peer => ⟨rfl, slotOn_iff s p peer⟩⟩
  · have hev : ∀ {t}, choose k (s.atTime x) = t → Takes (.holdOffExpiry k) s t := fun ht =>
      takes_of_event (f := holdOffEnds k) rfl hs ((holdOffEnds_eq hsl hphase hx).trans ht)
    refine ⟨fun p hp => ⟨_, rfl, hev ?_⟩, fun hp => hev (choose_parks (s := s.atTime x) hsl hc hp)⟩
    rw [choose_inquires (s := s.atTime x) hsl hc hp, Slot.inquiringOn, if_pos hphase]
    rfl
  · have hev : ∀ {t}, slotAction k sl p n w = t → Takes (.slotInquiryExpiry k) s t := fun ht =>
      takes_of_event (f := slotInquiryEnds k) rfl hs ((slotInquiryEnds_eq hsl hphase hp hn hx).trans (hw ▸ ht))
    have hstc : w.stc = { s.stc with time := max s.stc.time x } := hw ▸ addScore_atTime_stc p 16 x s
    refine ⟨fun hwsl hlt b hb => ⟨_, rfl, hev ?_⟩, fun hwsl hle => hev (slotAction_givesUp hwsl hle p),
      fun hwsl => hev (slotAction_changed hwsl p n)⟩
    rw [slotAction_repeats hwsl hlt hb, hstc]
    rfl
  · obtain ⟨htried, hprefs, husable⟩ := (shiftOk_iff s c tried p).1 (candidate_ok hp)
    refine ⟨htried, hprefs, husable, fun f hf hft hfp hfu => ?_, fun hf hsuspect q hq hqt hqu => ?_⟩
    · rw [candidate_forced hf ((shiftOk_iff s c tried f).2 ⟨hft, hfp, hfu⟩)] at hp
      exact (Option.some.inj hp).symm
    · exact candidate_suspect (fun f hfo => shiftOk_false_iff.2 (hf f hfo)) hp hsuspect
        ((shiftOk_iff s c tried q).2 ⟨hqt, hq, hqu⟩)
  · simp only [candidate_none_iff, Bool.eq_false_iff, Ne, shiftOk_iff]
    exact ⟨fun h p hp ht hu => h p ⟨ht, hp, hu⟩, fun h p ⟨ht, hp, hu⟩ => h p hp ht hu⟩
  · exact candidate_unforced fun f hfo => shiftOk_false_iff.2 (hf f hfo)
  · rw [hz]
    exact choose_inquires hsl hc hp
  · exact ⟨_, _, rfl, testPeerAll_tested p _, markPeer_marks he hlink hreach⟩

end Sys2Proof.Machine
end

section
/-! PROOFS. HOLD, RELEASE, SHIFT and RESTAGE on a ready link, the quiet point with a staged list, and the expiries of the hold
and of the park limit. -/

namespace Sys2Proof.Machine

/-! ## Requests that name a VACANT handle -/

section
variable {s : State} {h : Nat}

theorem ownHold_vacant (hr : s.recordOf h = none) (d : Nat) : ownHold h d s = refuse s .badHandle := by
  unfold ownHold
  rw [hr]

theorem ownRelease_vacant (hr : s.recordOf h = none) : ownRelease h s = refuse s .badHandle := by
  unfold ownRelease
  rw [hr]

theorem ownShift_vacant (hr : s.recordOf h = none) (target : Option Nat) :
    ownShift h target s = refuse s .badHandle := by
  unfold ownShift
  rw [hr]

theorem ownRestage_vacant (hr : s.recordOf h = none) (list : List Nat) :
    ownRestage h list s = refuse s .badHandle := by
  unfold ownRestage
  rw [hr]

/-! ## HOLD (R125) -/

variable {c : Conv} (hr : s.recordOf h = some c)
include hr

/-- The hold of a record in use: its state and then the duration decide (R125). -/
theorem ownHold_inUse (d : Nat) : ownHold h d s =
    if c.state = .lapsed then refuse s .wrongState
    else if d < 1 ∨ 60000 < d then refuse s .badValue
    else ⟨s.withConv h { c with hold := some (s.stc.time + d * 1000), holdExpired := false }, .done, []⟩ := by
  have hrange : (!inRange 1 60000 d) = true ↔ d < 1 ∨ 60000 < d := by
    rw [Bool.not_eq_true', ← Bool.not_eq_true, inRange_iff]
    omega
  unfold ownHold
  simp only [hr, hrange]
  rfl

/-! ## RELEASE (R127) -/

/-- With a hold in force RELEASE drops it (R127). -/
theorem ownRelease_held (hh : c.hold ≠ none) : ownRelease h s =
    ⟨if c.state = .withheld then enterQueue h (s.withConv h { c with hold := none })
      else s.withConv h { c with hold := none }, .done, []⟩ := by
  unfold ownRelease
  simp only [hr, Option.isSome_iff_ne_none.2 hh, if_true]
  rfl

/-- Without a hold the mark decides, and nothing changes (R127). -/
theorem ownRelease_free (hh : c.hold = none) :
    ownRelease h s = refuse s (if c.holdExpired = true then .expired else .notHeld) := by
  unfold ownRelease
  simp only [hr, hh, Option.isSome_none, Bool.false_eq_true, if_false]
  split <;> rfl

/-! ## SHIFT (R149) -/

theorem ownShift_badTarget {target : Option Nat} (ht : targetOf target = none) :
    ownShift h target s = refuse s .badValue := by
  unfold ownShift
  simp only [hr, ht]

section
variable {target : Option Nat} {t : Option Path} (ht : targetOf target = some t)
include ht

theorem ownShift_busy (hs : c.state = .shiftQueued ∨ c.state = .shifting) :
    ownShift h target s = refuse s .busy := by
  unfold ownShift
  rcases hs with hs | hs <;> simp only [hr, ht, hs]

theorem ownShift_wrongState (hs : c.state = .opening ∨ c.state = .lapsed) :
    ownShift h target s = refuse s .wrongState := by
  unfold ownShift
  rcases hs with hs | hs <;> simp only [hr, ht, hs]

theorem ownShift_carrying (hs : c.state = .carrying) : ownShift h target s =
    ⟨shiftCause false h (s.withConv h { c with forced := t }), .accepted, []⟩ := by
  unfold ownShift forceShift
  simp only [hr, ht, hs]
  rfl

theorem ownShift_withheld (hs : c.state = .withheld) : ownShift h target s =
    ⟨enterQueue h (s.withConv h { c with forced := t }), .accepted, []⟩ := by
  unfold ownShift forceShift
  simp only [hr, ht, hs]
  rfl

theorem ownShift_parked (hs : c.state = .parked) : ownShift h target s =
    ⟨enterQueue h (s.withConv h { c with forced := t, parkStart := none }), .accepted, []⟩ := by
  unfold ownShift forceShift
  simp only [hr, ht, hs]
  rfl

end

/-! ## RESTAGE (R147) -/

theorem ownRestage_lapsed (hl : c.state = .lapsed) (list : List Nat) : ownRestage h list s = refuse s .wrongState := by
  unfold ownRestage
  simp only [hr, hl, if_true]

theorem ownRestage_badList (hl : c.state ≠ .lapsed) {list : List Nat} (hp : preferenceList list = none) :
    ownRestage h list s = refuse s .badList := by
  unfold ownRestage
  simp only [hr, hl, hp, if_false]

theorem ownRestage_stages (hl : c.state ≠ .lapsed) {list : List Nat} {l : List Path}
    (hp : preferenceList list = some l) :
    ownRestage h list s = ⟨quietPoint h (s.withConv h { c with staged := some l }), .done, []⟩ := by
  unfold ownRestage
  simp only [hr, hl, hp, if_false]
  rfl

end

/-! ## The target of SHIFT and the list of RESTAGE -/

/-- A target is refused where it is present and no path (R149). -/
theorem targetOf_eq_none {target : Option Nat} : targetOf target = none ↔ ∃ n, target = some n ∧ 3 < n := by
  cases target with
  | none => simp [targetOf]
  | some n =>
    have hpath : Path.ofNum n = none ↔ ¬ ∃ p : Path, p.num = n := by
      simp only [Option.eq_none_iff_forall_ne_some, Ne, ofNum_eq_some, not_exists]
    rw [exists_num_eq] at hpath
    simp [targetOf, hpath]

theorem targetOf_valid {target : Option Nat} (hv : ¬ ∃ n, target = some n ∧ 3 < n) :
    targetOf target = some (target.bind Path.ofNum) := by
  rw [← targetOf_eq_none] at hv
  cases target with
  | none => rfl
  | some n =>
    have hn : Path.ofNum n ≠ none := by simpa [targetOf] using hv
    obtain ⟨p, hp⟩ := Option.ne_none_iff_exists'.1 hn
    simp [targetOf, hp]

/-- A preference list is 1 to 4 distinct paths in their order (R147 check 3). -/
theorem preferenceList_eq_some {l : List Nat} {ps : List Path} :
    preferenceList l = some ps ↔ 1 ≤ l.length ∧ l.length ≤ 4 ∧ l.Nodup ∧ ps.map Path.num = l := by
  unfold preferenceList
  split
  · rename_i hok
    simp only [Bool.and_eq_true, inRange_iff, decide_eq_true_eq] at hok
    obtain ⟨⟨hlow, hhigh⟩, hnodup⟩ := hok
    simp only [pathsOfNums_eq_some, hlow, hhigh, hnodup, true_and]
  · rename_i hbad
    simp only [Bool.and_eq_true, inRange_iff, decide_eq_true_eq] at hbad
    exact iff_of_false nofun fun ⟨hlow, hhigh, hnodup, _⟩ => hbad ⟨⟨hlow, hhigh⟩, hnodup⟩

/-! ## A quiet point with a staged list (R148) -/

/-- The state in which a staged list has become the preference list (R132, R148). -/
def State.restaged (s : State) (h : Nat) (c : Conv) (l : List Path) : State :=
  raiseConv h .stagedApplied (s.withConv h { c with prefs := l, staged := none })

theorem applyStaged_staged {c : Conv} {l : List Path} (hl : c.staged = some l) (h : Nat) (s : State) :
    applyStaged h c s = s.restaged h c l := by
  unfold applyStaged
  rw [hl]
  rfl

theorem quietPoint_restages {t : State} {h : Nat} {c : Conv} {l : List Path} {p : Path} (hc : t.conv h = some c)
    (hs : c.state = .carrying) (hj : hasSent c.journal = false) (hl : c.staged = some l) (hp : c.active = some p) :
    quietPoint h t =
      if p ∈ l then t.restaged h c l else shiftCause true h (t.restaged h c l) := by
  unfold quietPoint
  rw [hc]
  simp only [hs, hj, hl, hp, applyStaged_staged hl, decide_true, Bool.not_false, Bool.and_self, if_true,
    List.contains_iff_mem]

/-! ## The expiries (R128, R146) -/

section
variable {s : State} {h x : Nat} {c : Conv} (hc : s.conv h = some c)
include hc

theorem holdEnds_eq (hx : c.hold = some x) : holdEnds h s =
    if c.state = .withheld then
      enterQueue h (raiseConv h .holdExpired ((s.atTime x).withConv h { c with hold := none, holdExpired := true }))
    else raiseConv h .holdExpired ((s.atTime x).withConv h { c with hold := none, holdExpired := true }) := by
  unfold holdEnds
  rw [hc]
  simp only [hx]
  rfl

theorem parkEnds_eq (hs : c.state = .parked) (hx : c.parkStart = some x) : parkEnds h s =
    if s.stc.parkLimit ≠ 0 then lapse h .parkExpired (s.atTime (x + s.stc.parkLimit * 1000000)) else s := by
  unfold parkEnds
  rw [hc]
  simp only [hs, hx, decide_true, Bool.true_and, decide_eq_true_eq]
  rfl

end

/-! ## The statements -/

/-- Settles O16: the checks of `ownHold` in their order. -/
theorem holdSetsTheHold : Obligations.HoldSetsTheHold := by
  intro tag h d s hwf hs
  simp only [Instr.wellFormed, Bool.and_eq_true] at hwf
  obtain ⟨⟨-, hh⟩, hd⟩ := hwf
  have hreply : ∀ {t r l}, ownHold h d s.hunting = ⟨t, r, l⟩ → RepliesWith (.hold tag h d) s tag 3 r l t := fun ha =>
    repliesWith_of_own (r := .hold h d) rfl (by rw [Request.fits, hh, hd]; rfl) hs ha
  split
  · rename_i hrec
    exact hreply (ownHold_vacant (s := s.hunting) hrec d)
  rename_i c hrec
  have hown := ownHold_inUse (s := s.hunting) hrec d
  split
  · rename_i hl
    exact hreply (hown.trans (if_pos hl))
  rename_i hl
  rw [if_neg hl] at hown
  split
  · rename_i hv
    exact hreply (hown.trans (if_pos hv))
  · rename_i hv
    exact hreply (hown.trans (if_neg hv))

/-- Settles O17: the hold decides, and without one the mark does. -/
theorem releaseIsDecidedByTheHold : Obligations.ReleaseIsDecidedByTheHold := by
  intro tag h s hwf hs
  simp only [Instr.wellFormed, Bool.and_eq_true] at hwf
  obtain ⟨-, hh⟩ := hwf
  have hreply : ∀ {t r l}, ownRelease h s.hunting = ⟨t, r, l⟩ → RepliesWith (.release tag h) s tag 4 r l t := fun ha =>
    repliesWith_of_own (r := .release h) rfl hh hs ha
  split
  · rename_i hrec
    exact hreply (ownRelease_vacant (s := s.hunting) hrec)
  rename_i c hrec
  split
  · rename_i hheld
    have hown := ownRelease_held (s := s.hunting) hrec hheld
    split
    · rename_i hw
      rw [if_pos hw] at hown
      exact hreply hown
    · rename_i hw
      rw [if_neg hw] at hown
      exact hreply hown
  rename_i hfree
  have hown := ownRelease_free (s := s.hunting) hrec (not_not.1 hfree)
  split
  · rename_i hmark
    rw [if_pos hmark] at hown
    exact hreply hown
  · rename_i hmark
    rw [if_neg hmark] at hown
    exact hreply hown

/-- Settles O18: the target and the state are checked in this order, and each admitted state has its own effect. -/
theorem shiftForcesAShift : Obligations.ShiftForcesAShift := by
  intro tag h target s hwf hs
  simp only [Instr.wellFormed, Bool.and_eq_true] at hwf
  obtain ⟨⟨-, hh⟩, ht⟩ := hwf
  have hreply : ∀ {t r l}, ownShift h target s.hunting = ⟨t, r, l⟩ →
      RepliesWith (.shift tag h target) s tag 5 r l t := fun ha =>
    repliesWith_of_own (r := .shift h target) rfl (by rw [Request.fits, hh, ht]; rfl) hs ha
  split
  · rename_i hrec
    exact hreply (ownShift_vacant (s := s.hunting) hrec target)
  rename_i c hrec
  split
  · rename_i hbad
    exact hreply (ownShift_badTarget (s := s.hunting) hrec (targetOf_eq_none.2 hbad))
  rename_i hvalid
  have htarget := targetOf_valid hvalid
  split
  · rename_i hbusy
    exact hreply (ownShift_busy (s := s.hunting) hrec htarget hbusy)
  rename_i hbusy
  split
  · rename_i hwrong
    exact hreply (ownShift_wrongState (s := s.hunting) hrec htarget hwrong)
  rename_i hwrong
  split
  · rename_i hst
    exact hreply (ownShift_carrying (s := s.hunting) hrec htarget hst)
  rename_i hcarrying
  split
  · rename_i hst
    exact hreply (ownShift_withheld (s := s.hunting) hrec htarget hst)
  rename_i hwithheld
  have hparked : c.state = .parked := by
    cases hst : c.state <;> simp [hst] at hbusy hwrong hcarrying hwithheld ⊢
  exact hreply (ownShift_parked (s := s.hunting) hrec htarget hparked)

/-- Settles O19: the checks of `ownRestage` in their order, and the quiet point with and without a staged list. -/
theorem restageStagesTheList : Obligations.RestageStagesTheList := by
  refine ⟨fun l ps => preferenceList_eq_some, fun tag h list s hwf hs => ?_, fun h c t hc =>
    ⟨quietPoint_idle hc, fun hst hj l p hl hp u hu => ?_⟩⟩
  · simp only [Instr.wellFormed, Bool.and_eq_true] at hwf
    obtain ⟨⟨-, hh⟩, hlist⟩ := hwf
    have hreply : ∀ {t r l}, ownRestage h list s.hunting = ⟨t, r, l⟩ →
        RepliesWith (.restage tag h list) s tag 6 r l t := fun ha =>
      repliesWith_of_own (r := .restage h list) rfl (by rw [Request.fits, hh, hlist]; rfl) hs ha
    split
    · rename_i hrec
      exact hreply (ownRestage_vacant (s := s.hunting) hrec list)
    rename_i c hrec
    split
    · rename_i hl
      exact hreply (ownRestage_lapsed (s := s.hunting) hrec hl list)
    rename_i hl
    split
    · rename_i hp
      exact hreply (ownRestage_badList (s := s.hunting) hrec hl hp)
    rename_i l hp
    have hown := ownRestage_stages (s := s.hunting) hrec hl hp
    split
    · exact hreply hown
    · rename_i hquiet
      rw [quietPoint_idle (State.conv_withConv_same ..) (by simpa [imp_iff_not_or, or_assoc] using hquiet)] at hown
      exact hreply hown
  · subst hu
    have hquiet := quietPoint_restages hc hst hj hl hp
    exact ⟨fun hin => hquiet.trans (if_pos hin), fun hout => hquiet.trans (if_neg hout)⟩

/-- Settles O54: each expiry is its taking in the state at its time. -/
theorem holdAndParkExpiries : Obligations.HoldAndParkExpiries := by
  intro s h c hs hc
  refine ⟨fun x hx => ?_, fun x hst hx => ?_⟩
  · have hev : ∀ {t}, holdEnds h s = t → Takes (.holdExpiry h) s t := fun ht => takes_of_event rfl hs ht
    exact ⟨fun hw => hev ((holdEnds_eq hc hx).trans (if_neg hw)), fun hw => hev ((holdEnds_eq hc hx).trans (if_pos hw))⟩
  · have hev : ∀ {t}, parkEnds h s = t → Takes (.parkExpiry h) s t := fun ht => takes_of_event rfl hs ht
    exact ⟨fun hlimit => hev ((parkEnds_eq hc hst hx).trans (if_pos hlimit)),
      fun hlimit => hev ((parkEnds_eq hc hst hx).trans (if_neg (not_not.2 hlimit)))⟩

end Sys2Proof.Machine
end

section
/-! PROOFS. A slot grant: what it leaves of the conversation, the slot, the shift queue and the pending reasons, and the lapse
at the last send shift number. -/

namespace Sys2Proof.Machine

/-! ## A conversation that is granted a slot (R132) -/

/-- The record after a grant: SHIFTING under the next send shift number, a staged list applied (R132 steps 1 to 3). -/
def Conv.shiftingNext (c : Conv) : Conv :=
  { c with state := .shifting, sendShift := c.sendShift + 1, prefs := c.staged.getD c.prefs, staged := none }

/-- The slot after a grant, its hold-off ending at a station time (R132 step 4). -/
def Slot.heldOff (h : Nat) (c : Conv) (t : Nat) : Slot :=
  { handle := h, phase := .holdOff, newShift := c.sendShift + 1, candidate := none, tried := [],
    attempt := none, void := none, timer := some t }

/-- The state in which a staged list's application has been reported, the record apart. -/
def State.listReported (s : State) (h : Nat) (c : Conv) : State :=
  if c.staged = none then s else raiseConv h .stagedApplied s

/-- The state with another shift queue. -/
def State.withQueue (s : State) (q : List QueueEntry) : State := { s with she := { s.she with queue := q } }

/-- The state in which a slot holds off for a conversation (R132). -/
def State.granted (s : State) (k h : Nat) (c : Conv) : State :=
  raiseConv h .shiftBegun
    (setSlot k (Slot.heldOff h c (s.stc.time + c.holdOff * 1000)) ((s.listReported h c).withConv h c.shiftingNext))

section
variable (s : State) (k h : Nat) (c : Conv)

/-- A report touches the notice unit alone. -/
theorem listReported_rest :
    (s.listReported h c).convs = s.convs ∧ (s.listReported h c).she = s.she ∧ (s.listReported h c).paths = s.paths ∧
      (s.listReported h c).stc = s.stc := by
  unfold State.listReported
  split <;> exact ⟨rfl, rfl, rfl, rfl⟩

theorem granted_conv : (s.granted k h c).conv h = some c.shiftingNext :=
  State.conv_withConv_same (s.listReported h c) h _

theorem granted_conv_other {j : Nat} (hj : j ≠ h) : (s.granted k h c).conv j = s.conv j :=
  (State.conv_withConv_other (s.listReported h c) _ hj).trans (State.conv_congr (listReported_rest s h c).1 j)

theorem granted_slots :
    (s.granted k h c).she.slots = KMap.set s.she.slots k (Slot.heldOff h c (s.stc.time + c.holdOff * 1000)) := by
  show KMap.set (s.listReported h c).she.slots k _ = _
  rw [(listReported_rest s h c).2.1]

theorem granted_slot :
    (s.granted k h c).slot k = some (Slot.heldOff h c (s.stc.time + c.holdOff * 1000)) := by
  rw [State.slot, granted_slots, KMap.get?_set_same]

theorem granted_slot_other {j : Nat} (hj : j ≠ k) : (s.granted k h c).slot j = s.slot j := by
  rw [State.slot, granted_slots, KMap.get?_set, if_neg hj.symm]
  rfl

theorem granted_queue : (s.granted k h c).she.queue = s.she.queue :=
  show (s.listReported h c).she.queue = s.she.queue by rw [(listReported_rest s h c).2.1]

theorem granted_paths : (s.granted k h c).paths = s.paths := (listReported_rest s h c).2.2.1

theorem granted_stc : (s.granted k h c).stc = s.stc := (listReported_rest s h c).2.2.2

theorem mem_reasonsAt_listReported (r : Reason) : r ∈ reasonsAt (s.listReported h c).ntu.convs h ↔
    r ∈ reasonsAt s.ntu.convs h ∨ r = .stagedApplied ∧ c.staged ≠ none := by
  unfold State.listReported
  split
  · rename_i hs
    simp [hs]
  · rename_i hs
    rw [mem_reasonsAt_raiseConv, or_comm]
    simp [hs]

/-- A grant raises SHIFT-BEGUN, and STAGED-APPLIED where a list was staged (R132). -/
theorem mem_reasonsAt_granted (r : Reason) : r ∈ reasonsAt (s.granted k h c).ntu.convs h ↔
    r ∈ reasonsAt s.ntu.convs h ∨ r = .shiftBegun ∨ r = .stagedApplied ∧ c.staged ≠ none := by
  have hraise := mem_reasonsAt_raiseConv h .shiftBegun
    (setSlot k (Slot.heldOff h c (s.stc.time + c.holdOff * 1000)) ((s.listReported h c).withConv h c.shiftingNext)) r
  have hlist := mem_reasonsAt_listReported s h c r
  exact hraise.trans ((or_congr_right hlist).trans or_left_comm)

end

/-! ## The grant (R132) -/

section
variable {s : State} {h : Nat} {c : Conv} (hc : s.conv h = some c)
include hc

/-- The record between the staged list and the slot is written once. -/
theorem updConv_applyStaged :
    updConv h (fun c => { c with state := .shifting, sendShift := c.sendShift + 1 }) (applyStaged h c s) =
      (s.listReported h c).withConv h c.shiftingNext := by
  cases hs : c.staged with
  | none =>
    have hstay : applyStaged h c s = s := by
      unfold applyStaged
      rw [hs]
    rw [hstay, updConv_eq hc, State.listReported, if_pos hs, Conv.shiftingNext, hs]
    rfl
  | some l =>
    have hwritten : (s.restaged h c l).conv h = some { c with prefs := l, staged := none } :=
      State.conv_withConv_same s h _
    rw [applyStaged_staged hs, updConv_eq hwritten, State.listReported, if_neg (by simp [hs]), Conv.shiftingNext, hs]
    show raiseConv h .stagedApplied ((s.withConv h _).withConv h _) = _
    rw [State.withConv_withConv]
    rfl

theorem grant_last (hn : c.sendShift = Config.maxSeq) (k : Nat) : grant k h s = lapseCore h .notKnown s := by
  unfold grant
  rw [hc]
  exact if_pos hn

theorem grant_begins (hn : c.sendShift ≠ Config.maxSeq) (k : Nat) :
    grant k h s = if c.holdOff = 0 then chooseCore k (s.granted k h c) else s.granted k h c := by
  unfold grant
  rw [hc]
  simp only [if_neg hn, updConv_applyStaged hc]
  rfl

/-- A lapse of a live record (R21), before any grant. -/
theorem lapseCore_live (hl : c.state ≠ .lapsed) (why : LapseReason) :
    lapseCore h why s =
      raiseConv h .lapsed (withdrawConv h (leaveShift h (s.withConv h (c.lapsedBy why)))) := by
  unfold lapseCore
  rw [hc]
  exact if_neg hl

end

/-! ## The statement -/

section
variable {s : State} {h k : Nat} {c : Conv} {cls : ShiftClass} {rest : List QueueEntry} (hc : s.conv h = some c)
  (hq : s.she.queue = ⟨h, cls⟩ :: rest) (hk : s.freeSlotNo = some k)
include hc hq hk

/-- At the last send shift number the head of the queue lapses, and the other grants follow (R132). -/
theorem grantAll_last (hn : c.sendShift = Config.maxSeq) :
    grantAll s = grantAll (lapseCore h .notKnown (s.withQueue rest)) := by
  rw [← grant_last (s := s.withQueue rest) hc hn k]
  exact grantAll_cons hq hk

/-- A grant with a hold-off leaves the conversation in its slot, and the other grants follow (R132). -/
theorem grantAll_heldOff (hn : c.sendShift ≠ Config.maxSeq) (ho : c.holdOff ≠ 0) :
    grantAll s = grantAll ((s.withQueue rest).granted k h c) := by
  have hbegins := grant_begins (s := s.withQueue rest) hc hn k
  rw [if_neg ho] at hbegins
  rw [← hbegins]
  exact grantAll_cons hq hk

/-- A hold-off of 0 ends within the grant (R132, R133). -/
theorem grantAll_chooses (hn : c.sendShift ≠ Config.maxSeq) (ho : c.holdOff = 0) :
    grantAll s = choose k ((s.withQueue rest).granted k h c) := by
  have hbegins := grant_begins (s := s.withQueue rest) hc hn k
  rw [if_pos ho] at hbegins
  rw [choose, ← hbegins]
  exact grantAll_cons hq hk

end

/-- Settles O58: the head of the queue leaves for the lowest free slot, and what follows is the grant's own record, slot and
reasons; an entry alone in the queue is followed by no other grant. -/
theorem aGrantBeginsAShift : Obligations.AGrantBeginsAShift := by
  refine ⟨fun s h k c cls hc hq hk => ⟨((KMap.lowestFree_spec _ _).2 k).1 hk, fun hn hl => ?_, fun hn ho => ?_⟩,
    fun s _ h k c cls rest hc hq hk _ => ⟨fun hn hl => ?_, fun hn => ?_⟩⟩
  · have hcore := lapseCore_live (s := s.withQueue []) hc hl .notKnown
    have hempty : (lapseCore h .notKnown (s.withQueue [])).she.queue = [] := by
      rw [hcore]
      exact leaveShift_queue_nil (s := (s.withQueue []).withConv h _) h rfl
    rw [grantAll_last hc hq hk hn, grantAll_nil hempty]
    refine ⟨c.lapsedBy .notKnown, ?_, rfl, rfl, rfl, rfl, rfl, hempty⟩
    rw [hcore]
    exact State.conv_withConv_same (s.withQueue []) h _
  · have hempty : ((s.withQueue []).granted k h c).she.queue = [] := granted_queue ..
    have hreasons := mem_reasonsAt_granted (s.withQueue []) k h c
    refine ⟨_, rfl, ?_⟩
    rw [grantAll_heldOff hc hq hk hn ho, grantAll_nil hempty]
    exact ⟨hempty, granted_conv .., granted_slot .., fun j hj => granted_slot_other _ k h c hj,
      fun j hj => granted_conv_other _ k h c hj, (hreasons _).2 (.inr (.inl rfl)),
      fun hs => (hreasons _).2 (.inr (.inr ⟨rfl, hs⟩)), granted_paths .., granted_stc ..⟩
  · refine ⟨_, c.lapsedBy .notKnown, grantAll_last hc hq hk hn, ?_⟩
    rw [lapseCore_live (s := s.withQueue rest) hc hl]
    refine ⟨State.conv_withConv_same (s.withQueue rest) h _, rfl, rfl, rfl, rfl, rfl,
      fun j hj => State.conv_withConv_other s _ hj, leaveShift_slots h _, rfl, fun r hr => ?_⟩
    rw [mem_reasonsAt_raiseConv] at hr
    exact hr.symm
  · have hreasons := mem_reasonsAt_granted (s.withQueue rest) k h c
    refine ⟨(s.withQueue rest).granted k h c, granted_conv .., granted_slot .., granted_queue ..,
      fun j hj => granted_slot_other _ k h c hj, fun j hj => granted_conv_other _ k h c hj,
      (hreasons _).2 (.inr (.inl rfl)), hreasons, granted_paths .., granted_stc .., grantAll_heldOff hc hq hk hn,
      fun ho b z hb hz => ?_⟩
    obtain rfl : c.shiftingNext = b := Option.some.inj ((granted_conv ..).symm.trans hb)
    obtain rfl := Option.some.inj ((granted_slot ..).symm.trans hz)
    rw [grantAll_chooses hc hq hk hn ho]
    refine ⟨fun p hp y hy => ?_, choose_parks hz hb⟩
    rw [choose_inquires hz hb hp, granted_stc, hy]
    rfl

end Sys2Proof.Machine
end

section
/-! PROOFS. READ STATION on a ready link; what the end of a record leaves while its taking is barred, what its decoding
answers by itself, and octets that arrive. -/

namespace Sys2Proof.Machine

/-- Settles O23: the answer of `ownReadStation`, with the codes of the state at the taking. -/
theorem readStationReportsTheStationFields : Obligations.ReadStationReportsTheStationFields := fun _ _ _ hs =>
  repliesWith_of_own (r := .readStation) rfl rfl hs rfl

/-! ## The end of a record (R162 to R164) -/

/-- While the accept line is LOW the octets of a record are lost (R162). -/
theorem hostRecord_lost (e : RecordEnd) {s : State} (ha : s.acceptHigh = false) : hostRecord e s = s := by
  simp [hostRecord, ha]

/-- With the reply queue full no entry is taken (R164). -/
theorem intake_repliesFull (n : Nat) {s : State} (hr : Config.replyEntries ≤ s.hlu.replies.length) : intake n s = s := by
  cases n with
  | zero => rfl
  | succ n => exact if_neg (by simp [State.canTake, Nat.not_lt.2 hr])

/-- With the reply queue full an entry waits at the tail of the input buffer (R163, R164). -/
theorem hostRecord_waits (e : RecordEnd) {s : State} (ha : s.acceptHigh = true)
    (hr : Config.replyEntries ≤ s.hlu.replies.length) :
    hostRecord e s = { s with hlu := { s.hlu with input := s.hlu.input ++ [e], parser := .hunting } } :=
  (if_pos ha).trans (intake_repliesFull _ hr)

/-! ## What decoding answers by itself (R158) -/

/-- A code outside Table 8-6 names no request. -/
theorem decodeParams_unknown {code : Nat} (h : code = 0 ∨ 22 < code) (l : List Byte) : decodeParams code l = none := by
  obtain rfl | h := h
  · rfl
  · obtain ⟨k, rfl⟩ := Nat.exists_eq_add_of_le' h
    rfl

theorem decodeRequest_unknown (tag : Nat) {code : Nat} (hc : code < 256) (h : code = 0 ∨ 22 < code) (params : List Byte) :
    decodeRequest tag (octetsOf 1 code ++ params) = .unknown tag code := by
  have hcode : (BitVec.ofNat 8 (code / 256 ^ 0)).toNat = code := by simp [Nat.mod_eq_of_lt hc]
  simp only [octetsOf, List.cons_append, List.nil_append, decodeRequest, hcode, decodeParams_unknown h]

/-- A record that decoding answers by itself has that reply on a ready link, and no block has been asked. -/
theorem repliesWith_undecided {c : Instr} {e : RecordEnd} {s : State} {tag code : Nat} {res : Result}
    (hc : exec c s = .next (hostRecord e s)) (hs : s.ready)
    (hd : ∀ t, decideTaking (decodeEntry e) t = replyOnly tag code res t) :
    RepliesWith c s tag code res [] s.hunting := by
  unfold RepliesWith
  rw [hc, hostRecord_ready e hs, hd]
  rfl

/-- Settles O10: bodies decode by `decodeRequest_body` and `decodeSend_body`, an entry is lost, waits or is taken by the accept
line and the reply queue, and three kinds of record are answered by their decoding. -/
theorem aRecordEndIsBufferedAndDecoded : Obligations.ARecordEndIsBufferedAndDecoded := by
  refine ⟨decodeRequest_body, fun tag h k len payload hh hk hl => ?_, fun e s => ?_, fun s hs => ?_⟩
  · have hlen : WellFormed.fits 16 len = true := fits_iff.2 hl
    refine ⟨fun hp => ?_, decodeSend_mismatch hlen⟩
    subst hp
    exact decodeSend_body tag h k payload (fits_iff.2 hh) (fits_iff.2 hk) hl
  · exact ⟨fun ha => congrArg _ (hostRecord_lost e ha), fun ha hr => congrArg _ (hostRecord_waits e ha hr),
      fun hs => congrArg _ (hostRecord_ready e hs)⟩
  · refine ⟨repliesWith_undecided (e := .bad) rfl hs fun _ => rfl, repliesWith_undecided (e := .bad) rfl hs fun _ => rfl,
      fun tag => repliesWith_undecided (e := .request tag []) rfl hs fun _ => rfl, fun tag code params hwf => ?_⟩
    simp only [Instr.wellFormed, Bool.and_eq_true, decide_eq_true_eq, fits_iff] at hwf
    obtain ⟨⟨⟨-, hcode⟩, hrange⟩, -⟩ := hwf
    refine repliesWith_undecided (e := .request tag (octetsOf 1 code ++ params)) rfl hs fun t => ?_
    rw [decodeEntry, decodeRequest_unknown tag hcode hrange]
    rfl

/-! ## Octets that arrive (R156, R162) -/

theorem octetArrived_lost (o : Byte) {s : State} (ha : s.acceptHigh = false) : octetArrived o s = s := by
  simp [octetArrived, ha]

/-- An octet that ends no record moves the parser alone (R156). -/
theorem octetArrived_moves {o : Byte} {s : State} (ha : s.acceptHigh = true) (hn : (parseOctet o s.hlu.parser).2 = none) :
    octetArrived o s = afterEvent { s with hlu := { s.hlu with parser := (parseOctet o s.hlu.parser).1 } } := by
  simp only [octetArrived, ha, hn, if_true, updHlu]

/-- An octet that ends a record moves the parser before the entry joins the input buffer (R156, R163). -/
theorem octetArrived_ends {o : Byte} {s : State} {e : RecordEnd} (ha : s.acceptHigh = true)
    (he : (parseOctet o s.hlu.parser).2 = some e) :
    octetArrived o s = endRecord e { s with hlu := { s.hlu with parser := (parseOctet o s.hlu.parser).1 } } := by
  simp only [octetArrived, ha, he, if_true, updHlu]

/-- Settles O12: an octet is lost, moves the parser or ends a record by the accept line and by what the parser hands over. -/
theorem anArrivingOctetMovesTheParser : Obligations.AnArrivingOctetMovesTheParser := by
  refine fun o s => ⟨fun ha => congrArg _ (octetArrived_lost o ha), fun ha hn => congrArg _ (octetArrived_moves ha hn),
    fun hs e he => congrArg Host.Outcome.next ?_⟩
  obtain ⟨-, hinput, hreplies, hrestart⟩ := id hs
  rw [octetArrived_ends hs.acceptHigh he]
  exact endRecord_ready e hinput hreplies hrestart

end Sys2Proof.Machine
end

section
/-! PROOFS. Records on the host link: the octets of a record read back by the parser, bad records, and the octets of the
records that the part sends. -/

namespace Sys2Proof.Machine

/-! ## Records of the host (R155, R156) -/

/-- The octets that the check of a record covers: its length, kind, tag and body (Table 8-4). -/
def coveredOctets (kind tag : Nat) (body : List Byte) : List Byte :=
  octetsOf 2 (body.length + 2) ++ octetsOf 1 kind ++ octetsOf 1 tag ++ body

theorem recordOctets_eq (kind tag : Nat) (body : List Byte) :
    recordOctets kind tag body =
      0xC3#8 :: (coveredOctets kind tag body ++ octetsOf 2 (crc16 (coveredOctets kind tag body)).toNat) := rfl

/-- A record whose length numbers its body is read as its kind, tag and body where its check is right (R156). -/
theorem recordOfOctets_record (kind tag : Nat) (body check : List Byte) :
    recordOfOctets (body.length + 2) (octetsOf 1 kind ++ octetsOf 1 tag ++ body ++ check) =
      if check = octetsOf 2 (crc16 (coveredOctets kind tag body)).toNat then
        if BitVec.ofNat 8 kind = 1#8 then .request (tag % 256) body
        else if BitVec.ofNat 8 kind = 2#8 then .send (tag % 256) body else .bad
      else .bad := by
  have hlen : (octetsOf 1 kind ++ octetsOf 1 tag ++ body).length = body.length + 2 := by simp; omega
  have hcovered : octetsOf 2 (body.length + 2) ++ (octetsOf 1 kind ++ octetsOf 1 tag ++ body) =
      coveredOctets kind tag body := by simp [coveredOctets]
  unfold recordOfOctets
  simp only [List.take_left' hlen, List.drop_left' hlen, hcovered, checkOctets]
  simp [octetsOf]

/-- The parser reads a record of at most 1022 body octets whole (R156). -/
theorem parsed_record (kind tag : Nat) {body check : List Byte} (hb : body.length ≤ 1022) (hc : check.length = 2) :
    parsed (0xC3#8 :: (coveredOctets kind tag body ++ check)) =
      (.hunting, [recordOfOctets (body.length + 2) (octetsOf 1 kind ++ octetsOf 1 tag ++ body ++ check)]) := by
  rw [← parsed_frame (body.length + 2) (by omega) (by omega) _ (by simp [hc]; omega)]
  simp [coveredOctets]

theorem ofNat_eq_iff {n m : Nat} (hn : n < 256) (hm : m < 256) : BitVec.ofNat 8 n = BitVec.ofNat 8 m ↔ n = m := by
  rw [← BitVec.toNat_inj, BitVec.toNat_ofNat, BitVec.toNat_ofNat, Nat.mod_eq_of_lt hn, Nat.mod_eq_of_lt hm]

/-- A record of the host reads back as its kind gives (R155, R156). -/
theorem parsed_recordOctets {kind tag : Nat} {body : List Byte} (hk : kind < 256) (ht : tag < 256)
    (hb : body.length ≤ 1022) :
    parsed (recordOctets kind tag body) =
      (.hunting, [if kind = 1 then .request tag body else if kind = 2 then .send tag body else .bad]) := by
  rw [recordOctets_eq, parsed_record kind tag hb (octetsOf_length ..), recordOfOctets_record, if_pos rfl,
    Nat.mod_eq_of_lt ht]
  simp only [ofNat_eq_iff hk (show 1 < 256 by decide), ofNat_eq_iff hk (show 2 < 256 by decide)]

/-- A wrong check makes a bad record (R156). -/
theorem parsed_wrongCheck (kind tag : Nat) {body check : List Byte} (hb : body.length ≤ 1022) (hc : check.length = 2)
    (hne : check ≠ octetsOf 2 (crc16 (coveredOctets kind tag body)).toNat) :
    parsed (0xC3#8 :: (coveredOctets kind tag body ++ check)) = (.hunting, [.bad]) := by
  rw [parsed_record kind tag hb hc, recordOfOctets_record, if_neg hne]

/-- A length outside 2 to 1024 is a bad record at once (R156). -/
theorem parsed_wrongLength {n : Nat} (hn : n < 65536) (h : n < 2 ∨ 1024 < n) :
    parsed (0xC3#8 :: octetsOf 2 n) = (.hunting, [.bad]) := by
  have hread : (BitVec.ofNat 8 (n / 256)).toNat * 256 + (BitVec.ofNat 8 n).toNat = n := by
    simp
    omega
  have hbad : parseOctet (BitVec.ofNat 8 n) (.length (some (BitVec.ofNat 8 (n / 256)))) = (.hunting, some .bad) := by
    simp only [parseOctet, hread]
    exact if_neg (by rw [inRange_iff]; omega)
  have hstart : parseOctet 0xC3#8 .hunting = (.length none, none) := rfl
  have hfirst : ∀ o, parseOctet o (.length none) = (.length (some o), none) := fun _ => rfl
  simp [parsed, octetsOf, hstart, hfirst, hbad]

theorem parseOctet_discarded {o : Byte} (h : o ≠ 0xC3#8) : parseOctet o .hunting = (.hunting, none) := if_neg h

/-! ## The check (R155) -/

theorem crc16_append (l : List Byte) (o : Byte) : crc16 (l ++ [o]) = crc16Octet (crc16 l) o := by
  simp [crc16]

/-! ## The records the part sends (R157, R159 to R161) -/

/-- The codes of a set of reasons, as the part writes them. -/
def reasonCodes (l : List Reason) : List Nat := (Reason.all.filter fun r => l.contains r).map codeOfReason

theorem octetsOfReasons_eq (l : List Reason) :
    octetsOfReasons l = octetsOf 1 (reasonCodes l).length ++ (reasonCodes l).flatMap (octetsOf 1) := rfl

/-- The codes of Table 8-7 ascend in the order of `Reason.all`. -/
theorem reasonCodes_pairwise (l : List Reason) : (reasonCodes l).Pairwise (· < ·) :=
  List.Pairwise.sublist (List.filter_sublist.map codeOfReason)
    (show (Reason.all.map codeOfReason).Pairwise (· < ·) by decide)

theorem mem_reasonCodes (l : List Reason) (n : Nat) : n ∈ reasonCodes l ↔ ∃ r ∈ l, codeOfReason r = n := by
  simp [reasonCodes, mem_reason_all]

/-- The octets of a list of paths are their numbers behind the count (R157). -/
theorem octetsOfPaths_eq (ps : List Path) :
    octetsOfPaths ps = octetsOf 1 ps.length ++ ps.flatMap fun p => octetsOf 1 p.num := by
  simp [octetsOfPaths, octetsOfList, List.flatMap_map]

/-- Settles O11: the host's records are read by `parsed_frame`, and the part's own are their definitions written out. -/
theorem theParserFramesARecord : Obligations.TheParserFramesARecord := by
  refine ⟨fun _ _ _ => parsed_recordOctets, fun kind tag body covered check hb hcov => ?_, fun _ => parsed_wrongLength,
    fun _ => parseOctet_discarded, ⟨rfl, crc16_append, fun _ => rfl⟩, fun _ => rfl, fun _ => rfl,
    fun l => ⟨reasonCodes l, octetsOfReasons_eq l, reasonCodes_pairwise l, mem_reasonCodes l⟩, fun _ _ _ _ _ => rfl,
    fun _ _ _ _ _ _ _ _ _ => rfl, fun _ _ _ _ => rfl, fun _ _ _ => rfl, ?_, ?_⟩
  · subst hcov
    exact ⟨rfl, parsed_wrongCheck kind tag hb⟩
  · exact ⟨fun n v => ⟨octetsOf_length n v, rfl, rfl⟩, rfl, rfl, fun _ => rfl, fun _ _ => rfl, fun _ => rfl,
      octetsOfPaths_eq⟩
  · exact ⟨rfl, rfl, rfl, rfl, rfl, rfl, fun _ _ => rfl, rfl, rfl, rfl, rfl, rfl, rfl, rfl⟩

end Sys2Proof.Machine
end

section
/-! PROOFS. The octets of a frame that is sent: the FCS, the header fields and the body read back as the frame's own. -/

namespace Sys2Proof.Machine

/-! ## Bodies (R153, R154 checks 3 and 7) -/

/-- The body fields of a frame as they stand on the wire. -/
def FrameBody.wire : FrameBody → RxBody
  | .data q k pl => .data q (codeOfKind k) pl
  | .ack d => .ack d
  | .wait d => .wait d
  | .inquiry v => .inquiry v
  | .answer o v d => .answer (codeOfOutcome o) v d
  | .openFrame => .openFrame
  | .openReply a => .openReply (if a then 1 else 2)
  | .close f => .close f
  | .closeReply f => .closeReply f
  | .abandon => .abandon
  | .probe => .probe
  | .echo => .echo

/-- The values of a body lie in their ranges (Table 8-3). -/
def FrameBody.InRange : FrameBody → Prop
  | .data q _ pl => 1 ≤ q ∧ q ≤ 4294967295 ∧ 1 ≤ pl.length ∧ pl.length ≤ 512
  | .ack d => d ≤ 4294967295
  | .wait d => d ≤ 4294967295
  | .inquiry v => ∀ x ∈ v, 1 ≤ x ∧ x ≤ 4294967295
  | .answer _ v d => (∀ x ∈ v, 1 ≤ x ∧ x ≤ 4294967295) ∧ d ≤ 4294967295
  | .close x => x ≤ 4294967295
  | .closeReply x => x ≤ 4294967295
  | _ => True

theorem kindOfCode_codeOfKind (k : RecKind) : kindOfCode (codeOfKind k) = some k := by cases k <;> rfl

theorem codeOfKind_lt (k : RecKind) : codeOfKind k < 256 := by cases k <;> decide

theorem outcomeOfCode_codeOfOutcome (o : AnswerOutcome) : outcomeOfCode (codeOfOutcome o) = some o := by cases o <;> rfl

theorem voidOk_of_range {v : Option Nat} (h : ∀ x ∈ v, 1 ≤ x ∧ x ≤ 4294967295) : voidOk v = true := by
  cases v with
  | none => rfl
  | some x => exact seqOk_iff.2 (h x rfl)

theorem throughOk_of_range {d : Nat} (h : d ≤ 4294967295) : throughOk d = true := decide_eq_true h

/-- A body in range passes check 7 of R154 as itself. -/
theorem check_wire {b : FrameBody} (h : b.InRange) : b.wire.check = some b := by
  cases b with
  | data q k pl =>
    obtain ⟨h1, h2, h3, h4⟩ := h
    simp [FrameBody.wire, RxBody.check, kindOfCode_codeOfKind, seqOk, Config.maxSeq, Config.maxPayload, h1, h2, h3, h4]
  | ack d => exact if_pos (throughOk_of_range h)
  | wait d => exact if_pos (throughOk_of_range h)
  | inquiry v => exact if_pos (voidOk_of_range h)
  | answer o v d =>
    obtain ⟨hv, hd⟩ := h
    simp [FrameBody.wire, RxBody.check, outcomeOfCode_codeOfOutcome, voidOk_of_range hv, throughOk_of_range hd]
  | openReply a => cases a <;> rfl
  | close x => exact if_pos (throughOk_of_range h)
  | closeReply x => exact if_pos (throughOk_of_range h)
  | openFrame | abandon | probe | echo => rfl

theorem numberOf_octetsOf4 {d : Nat} (h : d ≤ 4294967295) : numberOf (octetsOf 4 d) = d :=
  numberOf_octetsOf (Nat.lt_succ_of_le h)

/-- A void marker with its sequence reads back. -/
theorem voidOfOctets_octetsOfVoid {v : Option Nat} (h : ∀ x ∈ v, 1 ≤ x ∧ x ≤ 4294967295) :
    voidOfOctets (octetsOfVoid v) = some v := by
  cases v with
  | none => rfl
  | some x => simp [octetsOfVoid, octetsOfOptNum, octetsOfOpt, voidOfOctets, numberOf_octetsOf4 (h x rfl).2]

/-- The octets of DATA read back: sequence, kind code, length and payload stand one behind the other. -/
theorem bodyOfOctets_data {q : Nat} (k : RecKind) {pl : List Byte} (hq : q ≤ 4294967295) (hpl : pl.length ≤ 512) :
    bodyOfOctets 1 (FrameBody.data q k pl).octets = some (.data q (codeOfKind k) pl) := by
  have hseq : numberOf ((FrameBody.data q k pl).octets.take 4) = q := numberOf_octetsOf4 hq
  have hkind : numberOf (((FrameBody.data q k pl).octets.drop 4).take 1) = codeOfKind k :=
    numberOf_octetsOf (n := 1) (codeOfKind_lt k)
  have hcount : numberOf (((FrameBody.data q k pl).octets.drop 5).take 2) = pl.length :=
    numberOf_octetsOf (n := 2) (by omega)
  have hpayload : (FrameBody.data q k pl).octets.drop 7 = pl := rfl
  have hlong : 7 ≤ (FrameBody.data q k pl).octets.length := Nat.le_add_left 7 pl.length
  simp only [bodyOfOctets, hseq, hkind, hcount, hpayload, hlong, and_self, if_true]

/-- The octets of an ANSWER read back: the void marker stands between the outcome code and the last four octets. -/
theorem bodyOfOctets_answer (o : AnswerOutcome) {v : Option Nat} {d : Nat} (hv : ∀ x ∈ v, 1 ≤ x ∧ x ≤ 4294967295)
    (hd : d ≤ 4294967295) :
    bodyOfOctets 5 (FrameBody.answer o v d).octets = some (.answer (codeOfOutcome o) v d) := by
  have ho : numberOf (octetsOf 1 (codeOfOutcome o)) = codeOfOutcome o := numberOf_octetsOf (by cases o <;> decide)
  have hlen : (FrameBody.answer o v d).octets.length = 1 + (octetsOfVoid v).length + 4 := by simp [FrameBody.octets]; omega
  have hvoid : 1 ≤ (octetsOfVoid v).length := by cases v <;> simp [octetsOfVoid, octetsOfOptNum, octetsOfOpt]
  have hb : (FrameBody.answer o v d).octets = octetsOf 1 (codeOfOutcome o) ++ (octetsOfVoid v ++ octetsOf 4 d) := by
    simp [FrameBody.octets]
  have houtcome : numberOf ((FrameBody.answer o v d).octets.take 1) = codeOfOutcome o := by
    rw [hb, List.take_left' (octetsOf_length ..), ho]
  have hmid : ((FrameBody.answer o v d).octets.drop 1).take ((FrameBody.answer o v d).octets.length - 5) = octetsOfVoid v := by
    rw [hlen, hb, List.drop_left' (octetsOf_length ..), List.take_left' (by omega)]
  have hlast : (FrameBody.answer o v d).octets.drop ((FrameBody.answer o v d).octets.length - 4) = octetsOf 4 d := by
    rw [hlen]
    exact List.drop_left' (by simp)
  simp only [bodyOfOctets, houtcome, hmid, hlast, voidOfOctets_octetsOfVoid hv, numberOf_octetsOf4 hd, Option.map_some]
  exact if_neg (by omega)

/-- A body of one number in four octets reads back. -/
theorem bodyOfNumber_octetsOf4 {d : Nat} (f : Nat → RxBody) (h : d ≤ 4294967295) :
    (if (octetsOf 4 d).length = 4 then some (f (numberOf (octetsOf 4 d))) else none) = some (f d) := by
  rw [if_pos (octetsOf_length ..), numberOf_octetsOf4 h]

/-- The body octets of a frame in range read back under its kind code as its wire fields (R153, R154 check 3). -/
theorem bodyOfOctets_octets {b : FrameBody} (h : b.InRange) : bodyOfOctets (kindCode b) b.octets = some b.wire := by
  cases b with
  | data q k pl =>
    obtain ⟨-, hq, -, hpl⟩ := h
    exact bodyOfOctets_data k hq hpl
  | ack d => exact bodyOfNumber_octetsOf4 .ack h
  | wait d => exact bodyOfNumber_octetsOf4 .wait h
  | inquiry v => exact congrArg (Option.map RxBody.inquiry) (voidOfOctets_octetsOfVoid h)
  | answer o v d =>
    obtain ⟨hv, hd⟩ := h
    exact bodyOfOctets_answer o hv hd
  | openReply a => cases a <;> rfl
  | close x => exact bodyOfNumber_octetsOf4 .close h
  | closeReply x => exact bodyOfNumber_octetsOf4 .closeReply h
  | openFrame | abandon | probe | echo => rfl

/-- A body in range is short enough for the length field of its header. -/
theorem octets_length_le {b : FrameBody} (h : b.InRange) : b.octets.length ≤ 519 := by
  have hvoid : ∀ v, (octetsOfVoid v).length ≤ 5 := fun v => by cases v <;> simp [octetsOfVoid, octetsOfOptNum, octetsOfOpt]
  cases b with
  | data q k pl =>
    obtain ⟨-, -, -, hpl⟩ := h
    simp [FrameBody.octets]
    omega
  | inquiry v => exact (hvoid v).trans (by decide)
  | answer o v d =>
    have := hvoid v
    simp [FrameBody.octets]
    omega
  | ack _ | wait _ | openReply _ | close _ | closeReply _ => simp [FrameBody.octets]
  | openFrame | abandon | probe | echo => simp [FrameBody.octets]

/-! ## The header (Table 8-1) -/

theorem kindCode_lt (b : FrameBody) : kindCode b < 256 := by cases b <;> simp [kindCode]

/-- A handle field reads back as the handle it was written from (R154 check 6). -/
theorem handleOfField_getD {h : Option Nat} (hh : ∀ x ∈ h, x < 256) : handleOfField (h.getD Config.absentHandle) = some h := by
  cases h with
  | none => exact handleOfField_absent
  | some x => exact handleOfField_present (hh x rfl)

theorem handle_lt {h : Option Nat} (hh : ∀ x ∈ h, x < 256) : h.getD Config.absentHandle < 256 ^ 2 := by
  cases h with
  | none => decide
  | some x => exact (hh x rfl).trans (by decide)

/-! ## The FCS (R151) -/

/-- The octets of a string followed by its FCS pass the check (R83 check 1). -/
theorem fcsOk_append {l : List Byte} (h : 14 ≤ l.length) : fcsOk (l ++ fcsOf l) = true := by
  have hlen : (l ++ fcsOf l).length = l.length + 4 := List.length_append
  simp [fcsOk, hlen, shortestFrame, h]

/-! ## The frame (R151, R152) -/

theorem content_length (f : TxFrame) : f.content.length = 16 + f.body.octets.length := by
  simp [TxFrame.content, octetsOfHandle]
  omega

/-- A data field is brought to 46 octets, and a longer one is left alone (R151). -/
theorem padTo46_length (l : List Byte) : (padTo46 l).length = max 46 l.length := by
  simp [padTo46]
  omega

theorem covered_length (f : TxFrame) : f.covered.length = 14 + (padTo46 f.content).length := by
  simp [TxFrame.covered]
  omega

/-- The data field stands between the first 14 octets and the FCS. -/
theorem dataField_octets (f : TxFrame) :
    (f.octets.drop 14).take (f.octets.length - shortestFrame) = padTo46 f.content := by
  have hdrop : f.octets.drop 14 = padTo46 f.content ++ fcsOf f.covered := rfl
  have hlen : f.octets.length = f.covered.length + 4 := List.length_append
  rw [hdrop, hlen, covered_length, shortestFrame, List.take_left' (by omega)]

/-- The body stands in the data field behind the 16 octets of the header, in front of the padding (Table 8-1). -/
theorem bodyField_padTo46 (f : TxFrame) : ((padTo46 f.content).drop 16).take f.body.octets.length = f.body.octets :=
  List.take_left' (l₂ := List.replicate (46 - f.content.length) 0#8) rfl

theorem etherDstOfOctets_octets (f : TxFrame) : etherDstOfOctets f.octets = f.etherDst := by
  have hread : numberOf (f.octets.take 6) = f.etherDst.toNat := numberOf_octetsOf (n := 6) f.etherDst.isLt
  simp [etherDstOfOctets, hread]

theorem typeOfOctets_octets {f : TxFrame} (h : f.etherType < 65536) : typeOfOctets f.octets = f.etherType :=
  numberOf_octetsOf (n := 2) h

/-- The header of a frame as a receiver reads it. -/
def TxFrame.head (f : TxFrame) : RxHead where
  etherDst := f.etherDst
  etherSrc := f.etherSrc
  etherType := f.etherType
  srcNode := f.srcNode
  dstNode := f.dstNode
  srcHandle := f.srcHandle.getD Config.absentHandle
  dstHandle := f.dstHandle.getD Config.absentHandle
  shift := f.shift

section
variable {f : TxFrame}

/-- The octets of a frame whose values fit their fields pass checks 1 to 4 of R154 and read back as those fields. -/
theorem fieldsOfOctets_octets (htype : f.etherType < 65536) (hsrc : f.srcNode ≤ 65534) (hdst : f.dstNode < 65536)
    (hsh : ∀ h ∈ f.srcHandle, h < 256) (hdh : ∀ h ∈ f.dstHandle, h < 256) (hshift : f.shift ≤ 4294967295)
    (hbody : f.body.InRange) : fieldsOfOctets f.octets = some (f.head, f.body.wire) := by
  have hlen : (padTo46 f.content).length = max 46 (16 + f.body.octets.length) := by rw [padTo46_length, content_length]
  have hcount : numberOf (((padTo46 f.content).drop 2).take 2) = f.body.octets.length :=
    numberOf_octetsOf (n := 2) (Nat.lt_of_le_of_lt (octets_length_le hbody) (by decide))
  have hversion : numberOf ((padTo46 f.content).take 1) = 1 := numberOf_octetsOf (n := 1) (by decide)
  have hkind : numberOf (((padTo46 f.content).drop 1).take 1) = kindCode f.body :=
    numberOf_octetsOf (n := 1) (kindCode_lt f.body)
  have hethersrc : numberOf ((f.octets.drop 6).take 6) = f.etherSrc.toNat := numberOf_octetsOf (n := 6) f.etherSrc.isLt
  have hsrcnode : numberOf (((padTo46 f.content).drop 4).take 2) = f.srcNode :=
    numberOf_octetsOf (n := 2) (Nat.lt_of_le_of_lt hsrc (by decide))
  have hdstnode : numberOf (((padTo46 f.content).drop 6).take 2) = f.dstNode := numberOf_octetsOf (n := 2) hdst
  have hsrchandle : numberOf (((padTo46 f.content).drop 8).take 2) = f.srcHandle.getD Config.absentHandle :=
    numberOf_octetsOf (n := 2) (handle_lt hsh)
  have hdsthandle : numberOf (((padTo46 f.content).drop 10).take 2) = f.dstHandle.getD Config.absentHandle :=
    numberOf_octetsOf (n := 2) (handle_lt hdh)
  have hshiftno : numberOf (((padTo46 f.content).drop 12).take 4) = f.shift := numberOf_octetsOf4 hshift
  have hpasses : ¬ ((padTo46 f.content).length < 16 ∨ (1 : Nat) ≠ 1 ∨
      (padTo46 f.content).length ≠ max 46 (16 + f.body.octets.length)) := by omega
  unfold fieldsOfOctets
  simp only [dataField_octets, hcount, hversion, hkind, bodyField_padTo46, bodyOfOctets_octets hbody, hethersrc, hsrcnode,
    hdstnode, hsrchandle, hdsthandle, hshiftno, etherDstOfOctets_octets, typeOfOctets_octets htype]
  rw [if_neg hpasses]
  simp [TxFrame.head]

/-- What a receiver reads of a frame whose values are in range passes checks 5 to 7 of R154 as the frame's own values. -/
theorem formatCheck_head (hsrc1 : 1 ≤ f.srcNode) (hsrc : f.srcNode ≤ 65534) (hsh : ∀ h ∈ f.srcHandle, h < 256)
    (hdh : ∀ h ∈ f.dstHandle, h < 256) (hshift : f.shift ≤ 4294967295)
    (hsp : f.srcHandle.isSome = srcHandlePresent f.body) (hdp : f.dstHandle.isSome = dstHandlePresent f.body)
    (hbody : f.body.InRange) :
    formatCheck f.head f.body.wire =
      some { srcNode := f.srcNode, srcHandle := f.srcHandle, dstHandle := f.dstHandle, shift := f.shift,
             body := f.body } := by
  simp [formatCheck, check_wire hbody, TxFrame.head, handleOfField_getD hsh, handleOfField_getD hdh, hsrc1, hsrc, hsp, hdp,
    Config.maxSeq, hshift]

end

/-- Settles O35: the FCS is checked over what it was computed of, and the fields and the body are read where they were
written. -/
theorem aSentFrameReadsBackAsItself : Obligations.ASentFrameReadsBackAsItself := by
  intro f htype hsrc1 hsrc hdst hsh hdh hshift hsp hdp hbody
  have hrange : f.body.InRange := hbody
  exact ⟨fcsOk_append (by rw [covered_length]; omega), typeOfOctets_octets htype, etherDstOfOctets_octets f, f.head,
    f.body.wire, fieldsOfOctets_octets htype hsrc hdst hsh hdh hshift hrange, rfl, rfl, rfl,
    formatCheck_head hsrc1 hsrc hsh hdh hshift hsp hdp hrange⟩

end Sys2Proof.Machine
end

section
/-! PROOFS. RESTART on a ready link, and the link while a restart is pending. -/

namespace Sys2Proof.Machine

/-! ## A pending restart (R162, R164, R165) -/

section
variable {s : State}

/-- The accept line is LOW while a restart is pending (R162). -/
theorem State.acceptHigh_of_restart (h : s.hlu.restart ≠ none) : s.acceptHigh = false := by
  simp [State.acceptHigh, h]

/-- The third condition of a taking fails while a restart is pending (R164). -/
theorem State.canTake_of_restart (h : s.hlu.restart ≠ none) : s.canTake = false := by
  simp [State.canTake, h]

/-! ## RESTART (R185) -/

/-- A RESTART whose kind code names a kind marks that kind pending, and changes nothing else. -/
theorem ownRestart_marks {n : Nat} {k : RestartKind} (hk : restartOfCode n = some k) :
    ownRestart n s = ⟨{ s with hlu := { s.hlu with restart := some k } }, .done, []⟩ := by
  unfold ownRestart
  rw [hk]
  rfl

/-- A command that brings a RESTART of a named kind on a ready link is answered DONE with that kind pending. -/
theorem repliesWith_restart {c : Instr} {tag n : Nat} {k : RestartKind}
    (hc : exec c s = .next (hostRecord (.request tag (Request.restart n).body) s)) (hn : (Request.restart n).fits = true)
    (hs : s.ready) (hk : restartOfCode n = some k) :
    RepliesWith c s tag 22 .done [] { s.hunting with hlu := { s.hunting.hlu with restart := some k } } :=
  repliesWith_of_own (r := .restart n) hc hn hs (ownRestart_marks hk)

end

/-- Settles O30: the two commands bring the kind codes 1 and 2, and a pending restart fails a condition of the accept line
and of the taking. -/
theorem restartIsPendingUntilItsReplyLeaves : Obligations.RestartIsPendingUntilItsReplyLeaves := by
  intro tag s _ hs
  refine ⟨?cold, ?warm, ?pending⟩
  case cold => exact repliesWith_restart (n := 1) rfl rfl hs rfl
  case warm => exact repliesWith_restart (n := 2) rfl rfl hs rfl
  case pending => exact fun u hu => ⟨State.acceptHigh_of_restart hu, State.canTake_of_restart hu⟩

end Sys2Proof.Machine
end

section
/-! PROOFS. SET NOTICE MASK on a ready link; whose turn the next notice is, and what building it leaves. -/

namespace Sys2Proof.Machine

/-! ## SET NOTICE MASK (R176) -/

/-- The codes of Table 8-7 are 1 to 19. -/
theorem reasonOfCode_isSome {c : Nat} : (reasonOfCode c).isSome = true ↔ 1 ≤ c ∧ c ≤ 19 := by
  have hcodes : Reason.all.map codeOfReason = List.range' 1 19 := by decide
  have hmem : (reasonOfCode c).isSome = true ↔ c ∈ Reason.all.map codeOfReason := by
    simp [reasonOfCode, List.find?_isSome]
  rw [hmem, hcodes, List.mem_range'_1]
  omega

theorem maskOfCodes_refused {codes : List Nat} (h : ∃ c ∈ codes, c < 1 ∨ 19 < c) : maskOfCodes codes = none := by
  obtain ⟨c, hc, hout⟩ := h
  refine if_neg fun hall => ?_
  have := reasonOfCode_isSome.1 (List.all_eq_true.1 hall c hc)
  omega

theorem maskOfCodes_inRange {codes : List Nat} (h : ¬ ∃ c ∈ codes, c < 1 ∨ 19 < c) :
    maskOfCodes codes = some (Reason.all.filter fun r => codes.contains (codeOfReason r)) := by
  refine if_pos (List.all_eq_true.2 fun c hc => reasonOfCode_isSome.2 ?_)
  have : ¬ (c < 1 ∨ 19 < c) := fun hout => h ⟨c, hc, hout⟩
  omega

theorem ownSetNoticeMask_refused {codes : List Nat} (h : ∃ c ∈ codes, c < 1 ∨ 19 < c) (s : State) :
    ownSetNoticeMask codes s = refuse s .badValue := by
  simp only [ownSetNoticeMask, maskOfCodes_refused h]

theorem ownSetNoticeMask_done {codes : List Nat} (h : ¬ ∃ c ∈ codes, c < 1 ∨ 19 < c) (s : State) :
    ownSetNoticeMask codes s =
      ⟨{ s with ntu := { s.ntu with mask := Reason.all.filter fun r => codes.contains (codeOfReason r) } }, .done, []⟩ := by
  simp only [ownSetNoticeMask, maskOfCodes_inRange h]

/-! ## Ready sets (R176) -/

section
variable {n : Ntu}

theorem Ntu.enabled_iff {set : List Reason} : n.enabled set = true ↔ n.rings set := by
  simp [Ntu.enabled, Ntu.rings]

theorem Ntu.closingReady_iff {h : Nat} : n.closingReady h = true ↔ n.closingRings h := by
  unfold Ntu.closingReady Ntu.closingRings
  cases KMap.get? n.closing h with
  | none => simp
  | some z => simp [Ntu.enabled_iff]

theorem Ntu.handleReady_iff {h : Nat} : (n.closingReady h || n.convReady h) = true ↔ n.handleRings h := by
  rw [Bool.or_eq_true, Ntu.closingReady_iff, Ntu.convReady, Ntu.enabled_iff, Ntu.handleRings]

/-- A handle with something ready is among those that the turn is looked for in. -/
theorem Ntu.mem_handles {h : Nat} (hh : h < 256) (hr : n.handleRings h) : h ∈ n.handles := by
  refine List.mem_filter.2 ⟨List.mem_range.2 hh, Bool.or_eq_true _ _ ▸ ?_⟩
  rcases hr with ⟨z, hz, -⟩ | ⟨r, hr, -⟩
  · exact .inr (hz ▸ rfl)
  · cases hc : KMap.get? n.convs h with
    | none => simp [reasonsAt, hc] at hr
    | some l => exact .inl rfl

theorem Ntu.lt_of_mem_handles {h : Nat} (hh : h ∈ n.handles) : h < 256 := List.mem_range.1 (List.mem_filter.1 hh).1

theorem Ntu.handles_pairwise (n : Ntu) : n.handles.Pairwise (· < ·) := List.pairwise_lt_range.filter _

/-! ## The notice turn (R177) -/

/-- Of a list in order, the member is found that meets the test and that none before it in the order does. -/
theorem find?_of_pairwise {α : Type} {R : α → α → Prop} {f : α → Bool} {l : List α} {x : α} (hl : l.Pairwise R) (hx : x ∈ l)
    (hf : f x = true) (hbefore : ∀ y, R y x → f y ≠ true) : l.find? f = some x := by
  obtain ⟨pre, post, rfl⟩ := List.append_of_mem hx
  exact find?_first hf fun y hy => hbefore y ((List.pairwise_append.1 hl).2.2 y hy x List.mem_cons_self)

/-- The order of the rotation is that of the turns counted from the rotation point. -/
theorem Ntu.turnsTo_lt {h j : Nat} (hrot : n.rotation ≤ 255) (hh : h < 256) (hj : j < 256)
    (ho : n.rotation < j ∧ h ≤ n.rotation ∨ (n.rotation < j ↔ n.rotation < h) ∧ j < h) : n.turnsTo j < n.turnsTo h := by
  unfold Ntu.turnsTo
  omega

theorem firstReady_station (hs : n.rings n.station) : n.firstReady = some .station := if_pos (Ntu.enabled_iff.2 hs)

/-- The lowest path whose set is ready is found. -/
theorem find?_path_lowest {p : Path} (hp : n.rings (n.paths.get p))
    (hlow : ∀ q, q.num < p.num → ¬ n.rings (n.paths.get q)) :
    Path.all.find? (fun q => n.enabled (n.paths.get q)) = some p := by
  have horder : Path.all.Pairwise fun q p => q.num < p.num := by decide
  have hmem : p ∈ Path.all := by cases p <;> decide
  exact find?_of_pairwise horder hmem (Ntu.enabled_iff.2 hp) fun q hq => mt Ntu.enabled_iff.1 (hlow q hq)

theorem find?_path_none (hp : ∀ p, ¬ n.rings (n.paths.get p)) :
    Path.all.find? (fun q => n.enabled (n.paths.get q)) = none :=
  List.find?_eq_none.2 fun q _ => mt Ntu.enabled_iff.1 (hp q)

/-- The lowest peer slot whose set is ready is found. -/
theorem find?_peer_lowest {k : Nat} (hk : k < 32) (hr : n.rings (reasonsAt n.peers k))
    (hlow : ∀ j, j < k → ¬ n.rings (reasonsAt n.peers j)) :
    (List.range Config.peerSlots).find? (fun k => n.enabled (reasonsAt n.peers k)) = some k :=
  find?_of_pairwise List.pairwise_lt_range (List.mem_range.2 hk) (Ntu.enabled_iff.2 hr)
    fun j hj => mt Ntu.enabled_iff.1 (hlow j hj)

theorem find?_peer_none (hk : ∀ k, k < 32 → ¬ n.rings (reasonsAt n.peers k)) :
    (List.range Config.peerSlots).find? (fun k => n.enabled (reasonsAt n.peers k)) = none :=
  List.find?_eq_none.2 fun k hm => mt Ntu.enabled_iff.1 (hk k (List.mem_range.1 hm))

/-- The ready handle that stands first behind the rotation point is found. -/
theorem find?_handle_first {h : Nat} (hrot : n.rotation ≤ 255) (hh : h < 256) (hr : n.handleRings h)
    (hfirst : ∀ j, j < 256 → n.handleRings j → n.turnsTo h ≤ n.turnsTo j) :
    (rotated n.rotation n.handles).find? (fun h => n.closingReady h || n.convReady h) = some h := by
  have horder : (rotated n.rotation n.handles).Pairwise fun j i => j < 256 ∧
      (n.rotation < j ∧ i ≤ n.rotation ∨ (n.rotation < j ↔ n.rotation < i) ∧ j < i) :=
    (rotated_pairwise n.rotation n.handles_pairwise).imp_of_mem fun hj _ ho =>
      ⟨Ntu.lt_of_mem_handles ((mem_rotated ..).1 hj), ho⟩
  have hmem : h ∈ rotated n.rotation n.handles := (mem_rotated ..).2 (Ntu.mem_handles hh hr)
  refine find?_of_pairwise horder hmem (Ntu.handleReady_iff.2 hr) fun j ⟨hj, ho⟩ hready => ?_
  exact absurd (hfirst j hj (Ntu.handleReady_iff.1 hready)) (Nat.not_le.2 (Ntu.turnsTo_lt hrot hh hj ho))

theorem find?_handle_none (hn : ∀ h, h < 256 → ¬ n.handleRings h) :
    (rotated n.rotation n.handles).find? (fun h => n.closingReady h || n.convReady h) = none :=
  List.find?_eq_none.2 fun h hm => mt Ntu.handleReady_iff.1 (hn h (Ntu.lt_of_mem_handles ((mem_rotated ..).1 hm)))

section
variable (hs : ¬ n.rings n.station)
include hs

theorem firstReady_path {p : Path} (hp : n.rings (n.paths.get p)) (hlow : ∀ q, q.num < p.num → ¬ n.rings (n.paths.get q)) :
    n.firstReady = some (.path p) := by
  rw [Ntu.firstReady, if_neg (mt Ntu.enabled_iff.1 hs), find?_path_lowest hp hlow]

variable (hp : ∀ p, ¬ n.rings (n.paths.get p))
include hp

theorem firstReady_peer {k : Nat} (hk : k < 32) (hr : n.rings (reasonsAt n.peers k))
    (hlow : ∀ j, j < k → ¬ n.rings (reasonsAt n.peers j)) : n.firstReady = some (.peer k) := by
  rw [Ntu.firstReady, if_neg (mt Ntu.enabled_iff.1 hs), find?_path_none hp, find?_peer_lowest hk hr hlow]

variable (hk : ∀ k, k < 32 → ¬ n.rings (reasonsAt n.peers k))
include hk

/-- Of the two sets of the handle whose turn it is, the closing record comes before the live set. -/
theorem firstReady_handle {h : Nat} (hrot : n.rotation ≤ 255) (hh : h < 256) (hr : n.handleRings h)
    (hfirst : ∀ j, j < 256 → n.handleRings j → n.turnsTo h ≤ n.turnsTo j) :
    (n.closingRings h → n.firstReady = some (.closing h)) ∧ (¬ n.closingRings h → n.firstReady = some (.conv h)) := by
  rw [Ntu.firstReady, if_neg (mt Ntu.enabled_iff.1 hs), find?_path_none hp, find?_peer_none hk,
    find?_handle_first hrot hh hr hfirst]
  exact ⟨fun hc => if_pos (Ntu.closingReady_iff.2 hc), fun hc => if_neg (mt Ntu.closingReady_iff.1 hc)⟩

theorem firstReady_none (hn : ∀ h, h < 256 → ¬ n.handleRings h) : n.firstReady = none := by
  rw [Ntu.firstReady, if_neg (mt Ntu.enabled_iff.1 hs), find?_path_none hp, find?_peer_none hk, find?_handle_none hn]

end
end

/-! ## The notice built (R178) -/

section
variable {s : State}

theorem buildNotice_peer {k : Nat} {e : Peer} (he : s.peer k = some e) :
    buildNotice (.peer k) s =
      ({ object := .peer k e.node (e.links.map PeerLink.reach), reasons := reasonsAt s.ntu.peers k },
       clearPeerReasons k s) := by
  simp only [buildNotice, he]
  rfl

theorem buildNotice_closing {h : Nat} {z : Closing} (hz : KMap.get? s.ntu.closing h = some z) :
    buildNotice (.closing h) s =
      ({ object := .conversation h z.snapshot, reasons := z.reasons },
       { s with ntu := { s.ntu with closing := KMap.erase s.ntu.closing h, rotation := h } }) := by
  simp only [buildNotice, hz]
  rfl

theorem buildNotice_conv {h : Nat} {c : Conv} (hc : s.conv h = some c) :
    buildNotice (.conv h) s =
      ({ object := .conversation h (c.snapshotAs (some c.state)), reasons := reasonsAt s.ntu.convs h },
       { s with ntu := { s.ntu with convs := KMap.erase s.ntu.convs h, rotation := h } }) := by
  simp only [buildNotice, hc]
  rfl

end

/-- Settles O29: the codes are checked against Table 8-7, the turn is looked for object by object in the order of R177, and
each notice is read off its object. -/
theorem setNoticeMaskReplacesTheMask : Obligations.SetNoticeMaskReplacesTheMask := by
  refine ⟨fun tag codes s hwf hs => ?mask, fun n hrot => ?turn, fun s => ?built⟩
  case mask =>
    have hfits : (Request.setNoticeMask codes).fits = true := (Bool.and_eq_true _ _ ▸ hwf).2
    split
    next hout => exact repliesWith_of_own (r := .setNoticeMask codes) rfl hfits hs (ownSetNoticeMask_refused hout _)
    next hin => exact repliesWith_of_own (r := .setNoticeMask codes) rfl hfits hs (ownSetNoticeMask_done hin _)
  case turn =>
    refine ⟨firstReady_station, fun hs => ⟨fun p => firstReady_path hs, fun hp => ⟨fun k => firstReady_peer hs hp, ?_⟩⟩⟩
    exact fun hk => ⟨fun h => firstReady_handle hs hp hk hrot, firstReady_none hs hp hk⟩
  case built =>
    refine ⟨rfl, ?_, fun k e => buildNotice_peer, fun h z => buildNotice_closing, fun h c => buildNotice_conv⟩
    rintro p r rfl
    rfl

end Sys2Proof.Machine
end

section
/-! PROOFS. SET STATION on a ready link: the values and the node id that its checks accept, and the fields that it writes. -/

namespace Sys2Proof.Machine

/-! ## SET STATION (R181) -/

/-- The frame type is unset or lies in 0x0600 to 0xFFFF (Table 11-1). -/
theorem frameTypeOk_iff (o : Option Nat) : frameTypeOk o = true ↔ ∀ v ∈ o, v = 0 ∨ 0x0600 ≤ v ∧ v ≤ 0xFFFF := by
  cases o <;> simp [frameTypeOk, inRange_iff]

theorem setStationOk_iff (a : SetStationArgs) :
    setStationOk a = true ↔
      (∀ v ∈ a.node, v ≤ 65534) ∧ (∀ v ∈ a.frameType, v = 0 ∨ 0x0600 ≤ v ∧ v ≤ 0xFFFF) ∧
        (∀ v ∈ a.inquiryTimeout, 5 ≤ v ∧ v ≤ 500) ∧ (∀ v ∈ a.openTimeout, 20 ≤ v ∧ v ≤ 2000) ∧
        ∀ v ∈ a.parkLimit, v ≤ 3600 := by
  simp only [setStationOk, Bool.and_eq_true, optInRange_iff, frameTypeOk_iff, Nat.zero_le, true_and, and_assoc]

section
variable {s : State} {a : SetStationArgs}

theorem handles_eq_nil_iff : s.handles = [] ↔ ∀ h, s.conv h = none := by
  simp [List.eq_nil_iff_forall_not_mem, mem_handles, Option.eq_none_iff_forall_ne_some]

/-- A node id given is free unless it is other than 0 and a peer's (R181 check 3). -/
theorem stationNodeFree_iff {o : Option Nat} : s.stationNodeFree o = true ↔
    ∀ n k e, o = some n → n ≠ 0 → s.peer k = some e → e.node ≠ n := by
  cases o with
  | none => simp [State.stationNodeFree]
  | some n =>
    simp only [State.stationNodeFree, Bool.or_eq_true, List.all_eq_true, mem_peerSlots, decide_eq_true_eq,
      Option.some.injEq]
    constructor
    · rintro (hzero | hall) _ k e rfl hn he
      · exact absurd hzero hn
      · simpa [he] using hall k ⟨e, he⟩
    · intro h
      refine or_iff_not_imp_left.2 fun hn k ⟨e, he⟩ => ?_
      simpa [he] using h n k e rfl hn he

theorem ownSetStation_busy (h : ∃ k c, s.conv k = some c) : ownSetStation a s = refuse s .busy := by
  obtain ⟨k, c, hc⟩ := h
  exact if_pos (List.ne_nil_of_mem ((mem_handles s k).2 ⟨c, hc⟩))

/-- With no record in use a value out of range or a node id that is not free is refused (R181 checks 2 and 3). -/
theorem ownSetStation_badValue (hv : ∀ h, s.conv h = none)
    (hbad : setStationOk a = false ∨ s.stationNodeFree a.node = false) : ownSetStation a s = refuse s .badValue := by
  rw [ownSetStation, if_neg (not_not.2 (handles_eq_nil_iff.2 hv))]
  rcases hbad with hrange | htaken
  · simp [hrange]
  · simp [htaken]

theorem ownSetStation_done (hv : ∀ h, s.conv h = none) (hok : setStationOk a = true)
    (hfree : s.stationNodeFree a.node = true) :
    ownSetStation a s = ⟨{ s with stc := s.stc.withSettings a }, .done, []⟩ := by
  rw [ownSetStation, if_neg (not_not.2 (handles_eq_nil_iff.2 hv))]
  simp [hok, hfree]

end

/-- Settles O28: the checks of `ownSetStation` in their order, each by what it accepts, and past them `Stc.withSettings`. -/
theorem setStationWritesTheStationFields : Obligations.SetStationWritesTheStationFields := by
  refine ⟨setStationOk_iff, fun tag a s hwf hs => ?_⟩
  have hfits : (Request.setStation a).fits = true := (Bool.and_eq_true _ _ ▸ hwf).2
  have hreply : ∀ {t res}, ownSetStation a s.hunting = ⟨t, res, []⟩ →
      RepliesWith (.setStation tag a) s tag 19 res [] t :=
    fun ha => repliesWith_of_own (r := .setStation a) rfl hfits hs ha
  refine ⟨?busy, ?range, ?taken, ?done⟩
  case busy => exact fun hc => hreply (ownSetStation_busy hc)
  case range => exact fun hv hbad => hreply (ownSetStation_badValue hv (.inl hbad))
  case taken =>
    rintro hv ⟨n, k, e, ha, hn, he, hnode⟩
    refine hreply (ownSetStation_badValue hv (.inr (Bool.eq_false_iff.2 fun hfree => ?_)))
    exact stationNodeFree_iff.1 hfree n k e ha hn he hnode
  case done => exact fun hv hok hnode => hreply (ownSetStation_done hv hok (stationNodeFree_iff.2 hnode))

end Sys2Proof.Machine
end

section
/-! PROOFS. The power-on values, and what holds them while RSTN is low. -/

namespace Sys2Proof.Machine

/-! ## RSTN low (R184) -/

section
variable {s : State}

/-- The accept line is LOW while RSTN is low (R184). -/
theorem State.acceptHigh_of_inReset (hr : s.inReset = true) : s.acceptHigh = false := by
  simp [State.acceptHigh, hr]

/-- With RSTN low and nothing in transmission, on the host link or on a port, a command other than the two of RSTN changes
nothing (log entry 7): records and octets are lost, a completion has nothing to complete, and no other event is taken. -/
theorem exec_of_inReset (hr : s.inReset = true) (hout : s.hlu.out = none) (htx : ∀ p, (s.path p).tx = none) {c : Instr}
    (hon : c ≠ .powerOn) (hreset : c ≠ .resetAssert) : exec c s = .next s := by
  have hlow := State.acceptHigh_of_inReset hr
  obtain ⟨hreply, hdeliver, hnotice⟩ := exec_completion_idle hout
  cases c
  case powerOn => exact absurd rfl hon
  case resetAssert => exact absurd rfl hreset
  case replyCompletion => exact hreply
  case deliverCompletion => exact hdeliver
  case noticeCompletion => exact hnotice
  case frameCompletion p => exact congrArg _ ((frameLeft_cases s p).1 (htx p))
  case octetArrival o => exact congrArg _ (octetArrived_lost o hlow)
  case frameCheckFailure | dataReceived | ackReceived | waitReceived | inquiryReceived | answerReceived | openReceived |
      openReplyReceived | closeReceived | closeReplyReceived | abandonReceived | probeReceived | echoReceived |
      lineSample | alarmSample | settleExpiry | probeRound | ackTimerExpiry | inquiryTimerExpiry | waitPauseExpiry |
      openTimerExpiry | closeTimerExpiry | holdExpiry | parkExpiry | holdOffExpiry | slotInquiryExpiry =>
    exact congrArg _ (event_inReset _ hr)
  all_goals exact congrArg _ (hostRecord_lost _ hlow)

end

/-- RESET ASSERT finds the values that it leaves (R184). -/
theorem exec_resetAssert_held {s : State} (hs : s = { State.reset with pending := s.pending, inReset := true }) :
    exec .resetAssert s = .next s :=
  congrArg Host.Outcome.next hs.symm

/-- Settles O9: both commands of RSTN start from `State.reset`, and in the state held nothing is in transmission. -/
theorem powerOnAndResetHoldThePowerOnValues : Obligations.PowerOnAndResetHoldThePowerOnValues := by
  refine ⟨fun _ => rfl, fun _ => rfl, fun c s hs hon => ?_⟩
  have hlow : s.inReset = true := by rw [hs]
  have hout : s.hlu.out = none := by rw [hs]; rfl
  have htx : ∀ p, (s.path p).tx = none := fun p => by
    rw [hs]
    exact congrArg PathRec.tx (reset_path p)
  refine ⟨State.acceptHigh_of_inReset hlow, ?_⟩
  by_cases hreset : c = .resetAssert
  · subst hreset
    exact exec_resetAssert_held hs
  · exact exec_of_inReset hlow hout htx hon hreset

end Sys2Proof.Machine
end

section
/-! PROOFS. A step runs the front command; the invariants hold at reset; and every command answers a next state, with the
queue of commands as it was and station time not taken back but by the two commands of RSTN. -/

namespace Sys2Proof.Machine

/-! ## Steps -/

theorem step_of_pending {c : Instr} {rest : List Instr} {s : State} (h : s.pending = c :: rest) :
    step s = exec c { s with pending := rest } := by
  unfold step
  rw [h]

theorem step_of_empty {s : State} (h : s.pending = []) : step s = .next (idle s) := by
  unfold step
  rw [h]

/-- Settles O1: `step` reads the front of the queue. -/
theorem stepRunsTheFrontCommand : Obligations.StepRunsTheFrontCommand :=
  ⟨fun _ _ _ h => step_of_pending h, fun _ h => step_of_empty h⟩

/-! ## Reset -/

theorem reset_scoresBounded : ScoresBounded State.reset := fun p => by
  rw [reset_path]
  exact Nat.zero_le _

/-- After reset every cell is free and no journal holds one (R52). -/
theorem reset_cellsBalance : CellsBalance State.reset := by
  rw [CellsBalance, reset_free, List.length_range]
  rfl

/-- Settles O3: after reset the buffers and the tables are empty, the scores are 0 and every cell is free. -/
theorem resetMeetsTheInvariants : Obligations.ResetMeetsTheInvariants :=
  ⟨⟨Nat.zero_le _, Nat.zero_le _⟩, Nat.zero_le _, reset_scoresBounded, rfl, ⟨rfl, rfl⟩, reset_cellsBalance⟩

/-! ## The relation that every command but the two of RSTN is shown to keep -/

/-- State `t` has the queue of commands of `s`, and its station time is not before that of `s` (R180). -/
structure ClockRuns (s t : State) : Prop where
  pending : t.pending = s.pending
  time : s.stc.time ≤ t.stc.time

theorem ClockRuns.of_time {s t : State} (hp : t.pending = s.pending) (ht : t.stc.time = s.stc.time) : ClockRuns s t :=
  ⟨hp, Nat.le_of_eq ht.symm⟩

theorem ClockRuns.of_outer {s t : State} (h : t.outer = s.outer) : ClockRuns s t :=
  .of_time (State.outer_pending h) (congrArg Stc.time (State.outer_stc h))

theorem ClockRuns.refl (s : State) : ClockRuns s s := .of_outer rfl

theorem ClockRuns.trans {s t u : State} (h : ClockRuns s t) (k : ClockRuns t u) : ClockRuns s u :=
  ⟨k.pending.trans h.pending, Nat.le_trans h.time k.time⟩

theorem advanceTo_clock (e : Nat) (s : State) : ClockRuns s (advanceTo e s) := ⟨rfl, Nat.le_max_left _ _⟩

/-- What follows the advance of station time to the instant of an expiry or a sample leaves it there (log entry 2). -/
theorem ClockRuns.of_advance {e : Nat} {s t : State} (h : t.outer = (advanceTo e s).outer) : ClockRuns s t :=
  (advanceTo_clock e s).trans (.of_outer h)

theorem updHlu_clock (f : Hlu → Hlu) (s : State) : ClockRuns s (updHlu f s) := .of_time rfl rfl

theorem chooseOut_clock (s : State) : ClockRuns s (chooseOut s) :=
  .of_time (chooseOut_pending s) (congrArg Stc.time (chooseOut_stc s))

theorem afterEvent_clock (s : State) : ClockRuns s (afterEvent s) :=
  .of_time (afterEvent_pending s) (congrArg Stc.time (afterEvent_stc s))

/-! ## Timers and samples (Machine/Timers.lean) -/

@[simp] theorem queueInquiry_outer (h : Nat) (c : Conv) (p : Path) (v : Nat) (s : State) :
    (queueInquiry h c p v s).outer = s.outer := queueOpt_outer _ _ s (queue2_outer p)

@[simp] theorem roundAction_outer (h : Nat) (s : State) : (roundAction h s).outer = s.outer := by
  unfold roundAction
  split
  · rfl
  split
  · split
    · exact quietPoint_outer h _
    · exact queueInquiry_outer h _ _ _ _
  · rfl

@[simp] theorem scoreActive_outer (c : Conv) (n : Nat) (s : State) : (scoreActive c n s).outer = s.outer := by
  unfold scoreActive
  split
  · rfl
  · exact addScore_outer _ n s

@[simp] theorem countRound_outer (h : Nat) (c : Conv) (s : State) : (countRound h c s).outer = s.outer :=
  (updConv_outer h _ _).trans (scoreActive_outer c 16 s)

@[simp] theorem ackExpired_outer (h : Nat) (c : Conv) (s : State) : (ackExpired h c s).outer = s.outer := by
  unfold ackExpired
  split <;> simp

@[simp] theorem inquiryAction_outer (h a v e : Nat) (s : State) : (inquiryAction h a v e s).outer = s.outer := by
  unfold inquiryAction
  (repeat' split) <;> simp

@[simp] theorem nextAttempt_outer (h : Nat) (c : Conv) (p : Path) (n : Nat) (s : State) :
    (nextAttempt h c p n s).outer = s.outer := by
  unfold nextAttempt
  split <;> simp

@[simp] theorem closeAction_outer (h : Nat) (s : State) : (closeAction h s).outer = s.outer := by
  unfold closeAction
  (repeat' split) <;> simp

@[simp] theorem giveUp_outer (k : Nat) (sl : Slot) (p : Path) (s : State) : (giveUp k sl p s).outer = s.outer := by
  unfold giveUp
  simp only
  split <;> simp

@[simp] theorem repeatAttempt_outer (k : Nat) (sl : Slot) (p : Path) (a : Nat) (s : State) :
    (repeatAttempt k sl p a s).outer = s.outer := by
  unfold repeatAttempt
  split <;> simp

@[simp] theorem slotAction_outer (k : Nat) (sl : Slot) (p : Path) (a : Nat) (s : State) :
    (slotAction k sl p a s).outer = s.outer := by
  unfold slotAction
  (repeat' split) <;> simp

@[simp] theorem becomeSound_outer (p : Path) (s : State) : (becomeSound p s).outer = s.outer := cueAll_outer none p _

@[simp] theorem lineQualified_outer (p : Path) (b : Bool) (s : State) : (lineQualified p b s).outer = s.outer := by
  unfold lineQualified
  (repeat' split) <;> simp

@[simp] theorem alarmQualified_outer (p : Path) (b : Bool) (s : State) : (alarmQualified p b s).outer = s.outer := by
  unfold alarmQualified
  split <;> simp

/-! An expiry of a timer that does not run changes nothing (log entry 6); one of a timer that runs goes to its instant. -/

theorem ackTimerEnds_clock (h : Nat) (s : State) : ClockRuns s (ackTimerEnds h s) := by
  unfold ackTimerEnds
  split
  · exact .refl s
  split
  · exact .of_advance (ackExpired_outer h _ _)
  · exact .refl s

theorem inquiryTimerEnds_clock (h : Nat) (s : State) : ClockRuns s (inquiryTimerEnds h s) := by
  unfold inquiryTimerEnds
  split
  · exact .refl s
  split
  · exact .of_advance ((inquiryAction_outer h _ _ _ _).trans (scoreActive_outer _ 16 _))
  · exact .refl s

theorem waitPauseEnds_clock (h : Nat) (s : State) : ClockRuns s (waitPauseEnds h s) := by
  unfold waitPauseEnds
  split
  · exact .refl s
  split
  · exact .refl s
  · exact .of_advance (quietPoint_outer h _)

theorem openTimerEnds_clock (h : Nat) (s : State) : ClockRuns s (openTimerEnds h s) := by
  unfold openTimerEnds
  split
  · exact .refl s
  split
  · exact .of_advance (nextAttempt_outer h _ _ _ _)
  · exact .refl s

theorem closeTimerEnds_clock (h : Nat) (s : State) : ClockRuns s (closeTimerEnds h s) := by
  unfold closeTimerEnds
  split
  · exact .refl s
  split
  · exact .refl s
  simp only
  split
  · exact .of_advance ((closeAction_outer h _).trans (countRound_outer h _ _))
  · exact .of_advance (shiftCause_outer true h _)

theorem holdEnds_clock (h : Nat) (s : State) : ClockRuns s (holdEnds h s) := by
  unfold holdEnds
  split
  · exact .refl s
  split
  · exact .refl s
  simp only
  split
  · exact .of_advance (enterQueue_outer h _)
  · exact .of_advance rfl

theorem parkEnds_clock (h : Nat) (s : State) : ClockRuns s (parkEnds h s) := by
  unfold parkEnds
  split
  · exact .refl s
  split
  · exact .refl s
  split
  · exact .of_advance (lapse_outer h _ _)
  · exact .refl s

theorem holdOffEnds_clock (k : Nat) (s : State) : ClockRuns s (holdOffEnds k s) := by
  unfold holdOffEnds
  split
  · exact .refl s
  split
  · exact .of_advance (choose_outer k _)
  · exact .refl s

theorem slotInquiryEnds_clock (k : Nat) (s : State) : ClockRuns s (slotInquiryEnds k s) := by
  unfold slotInquiryEnds
  split
  · exact .refl s
  split
  · exact .of_advance ((slotAction_outer k _ _ _ _).trans (addScore_outer _ 16 _))
  · exact .refl s

theorem probeRoundEnds_clock (p : Path) (s : State) : ClockRuns s (probeRoundEnds p s) := by
  unfold probeRoundEnds
  split
  · exact .refl s
  · exact .of_advance ((beginRound_outer p _).trans (closeRound_outer p _))

theorem settleEnds_clock (p : Path) (s : State) : ClockRuns s (settleEnds p s) := by
  unfold settleEnds
  split
  · exact .refl s
  simp only
  split
  · exact .of_advance (becomeSound_outer p _)
  · exact .of_advance (updPath_outer p _ _)

theorem lineSampled_clock (p : Path) (b : Bool) (s : State) : ClockRuns s (lineSampled p b s) := by
  unfold lineSampled
  simp only
  split
  · exact .of_advance (updPath_outer p _ _)
  split
  · exact .of_advance (updPath_outer p _ _)
  · exact .of_advance (lineQualified_outer p b _)

theorem alarmSampled_clock (p : Path) (b : Bool) (s : State) : ClockRuns s (alarmSampled p b s) := by
  unfold alarmSampled
  simp only
  split
  · exact .of_advance (updPath_outer p _ _)
  split
  · exact .of_advance (updPath_outer p _ _)
  · exact .of_advance (alarmQualified_outer p b _)

/-! ## Requests -/

@[simp] theorem refuse_outer (s : State) (r : Result) : (refuse s r).state.outer = s.outer := rfl

theorem issueCell_outer {payload : List Byte} {s t : State} {n : Nat} (h : issueCell payload s = some (n, t)) :
    t.outer = s.outer := by
  unfold issueCell at h
  split at h
  · cases h
  · cases h
    rfl

@[simp] theorem acceptSend_outer (h : Nat) (c : Conv) (q : Nat) (kind : RecKind) (payload : List Byte) (n : Nat)
    (s : State) : (acceptSend h c q kind payload n s).state.outer = s.outer := rfl

/-- Of the outcomes of a SEND only the last issues a cell; the others refuse (R30). -/
@[simp] theorem ownSend_outer (h kind : Nat) (payload : List Byte) (s : State) :
    (ownSend h kind payload s).state.outer = s.outer := by
  unfold ownSend
  split
  · rfl
  split
  · rfl
  split
  · rfl
  split
  · rfl
  split
  · rfl
  split
  · rfl
  split
  · rfl
  · rename_i hcell
    exact (acceptSend_outer ..).trans (issueCell_outer hcell)

@[simp] theorem ownOpen_outer (a : OpenArgs) (s : State) : (ownOpen a s).state.outer = s.outer := by
  unfold ownOpen
  (repeat' split) <;> simp

@[simp] theorem closeGracefully_outer (h : Nat) (c : Conv) (s : State) :
    (closeGracefully h c s).state.outer = s.outer := by
  unfold closeGracefully
  split <;> simp

@[simp] theorem closeAborting_outer (h : Nat) (c : Conv) (s : State) : (closeAborting h c s).state.outer = s.outer := by
  unfold closeAborting
  simp only
  split
  · exact (vacate_outer h _).trans (queueOpt_outer _ _ s (queue2_outer _))
  · exact vacate_outer h s

@[simp] theorem ownClose_outer (h m : Nat) (s : State) : (ownClose h m s).state.outer = s.outer := by
  unfold ownClose
  (repeat' split) <;> simp

@[simp] theorem ownHold_outer (h d : Nat) (s : State) : (ownHold h d s).state.outer = s.outer := by
  unfold ownHold
  (repeat' split) <;> rfl

@[simp] theorem ownRelease_outer (h : Nat) (s : State) : (ownRelease h s).state.outer = s.outer := by
  unfold ownRelease
  simp only
  (repeat' split) <;> simp

@[simp] theorem forceShift_outer (h : Nat) (c : Conv) (target : Option Path) (s : State) :
    (forceShift h c target s).outer = s.outer := by
  unfold forceShift
  split <;> simp

@[simp] theorem ownShift_outer (h : Nat) (target : Option Nat) (s : State) :
    (ownShift h target s).state.outer = s.outer := by
  unfold ownShift
  (repeat' split) <;> simp

@[simp] theorem ownRestage_outer (h : Nat) (l : List Nat) (s : State) : (ownRestage h l s).state.outer = s.outer := by
  unfold ownRestage
  (repeat' split) <;> simp

@[simp] theorem ownClearReturned_outer (h q : Nat) (s : State) : (ownClearReturned h q s).state.outer = s.outer := by
  unfold ownClearReturned
  (repeat' split) <;> rfl

@[simp] theorem ownReadConversation_outer (h : Nat) (s : State) : (ownReadConversation h s).state.outer = s.outer := by
  unfold ownReadConversation
  (repeat' split) <;> rfl

@[simp] theorem ownReadJournal_outer (h : Nat) (s : State) : (ownReadJournal h s).state.outer = s.outer := by
  unfold ownReadJournal
  split <;> rfl

@[simp] theorem ownScan_outer (st n d : Nat) (l : List Nat) (s : State) : (ownScan st n d l s).state.outer = s.outer := by
  unfold ownScan
  split <;> rfl

@[simp] theorem ownAddPeer_outer (a : AddPeerArgs) (s : State) : (ownAddPeer a s).state.outer = s.outer := by
  unfold ownAddPeer
  (repeat' split) <;> rfl

@[simp] theorem removalTest_outer (k : Nat) (e : Peer) (p : Path) (s : State) :
    (removalTest k e p s).outer = s.outer := by
  unfold removalTest
  split <;> simp

@[simp] theorem erasePeer_outer (k : Nat) (s : State) : (erasePeer k s).outer = s.outer := rfl

@[simp] theorem ownRemovePeer_outer (k : Nat) (s : State) : (ownRemovePeer k s).state.outer = s.outer := by
  unfold ownRemovePeer
  (repeat' split) <;> simp

@[simp] theorem ownReadPeer_outer (k : Nat) (s : State) : (ownReadPeer k s).state.outer = s.outer := by
  unfold ownReadPeer
  (repeat' split) <;> rfl

@[simp] theorem ownSetPath_outer (n : Nat) (a : SetPathArgs) (s : State) : (ownSetPath n a s).state.outer = s.outer := by
  unfold ownSetPath
  (repeat' split) <;> rfl

@[simp] theorem ownQuench_outer (n : Nat) (s : State) : (ownQuench n s).state.outer = s.outer := by
  unfold ownQuench
  (repeat' split) <;> simp

@[simp] theorem ownRevive_outer (n : Nat) (s : State) : (ownRevive n s).state.outer = s.outer := by
  unfold ownRevive
  (repeat' split) <;> simp

@[simp] theorem ownDrain_outer (n : Nat) (s : State) : (ownDrain n s).state.outer = s.outer := by
  unfold ownDrain
  (repeat' split) <;> simp

@[simp] theorem ownReadPath_outer (n : Nat) (s : State) : (ownReadPath n s).state.outer = s.outer := by
  unfold ownReadPath
  split <;> rfl

@[simp] theorem ownSetNoticeMask_outer (l : List Nat) (s : State) : (ownSetNoticeMask l s).state.outer = s.outer := by
  unfold ownSetNoticeMask
  split <;> rfl

/-- SET STATION writes no station time (R181). -/
theorem ownSetStation_clock (a : SetStationArgs) (s : State) : ClockRuns s (ownSetStation a s).state := by
  unfold ownSetStation
  split
  · exact .refl s
  split
  · exact .refl s
  split
  · exact .refl s
  · exact .of_time rfl rfl

/-- RESTART marks the link alone (R185). -/
theorem ownRestart_clock (n : Nat) (s : State) : ClockRuns s (ownRestart n s).state := by
  unfold ownRestart
  split
  · exact .refl s
  · exact .of_time rfl rfl

/-- SET STATION and RESTART write station control and the link; every other request leaves both, and the queue, alone. -/
theorem ownRequest_clock (r : Request) (s : State) : ClockRuns s (ownRequest r s).state := by
  cases r with
  | setStation a => exact ownSetStation_clock a s
  | restart n => exact ownRestart_clock n s
  | readStation => exact .refl s
  | _ => exact .of_outer (by simp [ownRequest])

/-! ## The host link -/

theorem answerWith_clock (tag code : Nat) (a : Answer) : ClockRuns a.state (answerWith tag code a) := .of_time rfl rfl

theorem decideTaking_clock (x : Taking) (s : State) : ClockRuns s (decideTaking x s) := by
  cases x with
  | bad | unknown | malformed => exact answerWith_clock _ _ (refuse s _)
  | send tag h n len payload => exact (ClockRuns.of_outer (ownSend_outer h n payload s)).trans (answerWith_clock ..)
  | request tag r => exact (ownRequest_clock r s).trans (answerWith_clock ..)

theorem takeHead_clock (s : State) : ClockRuns s (takeHead s) := by
  unfold takeHead
  split
  · exact .refl s
  · exact (updHlu_clock _ s).trans (decideTaking_clock _ _)

theorem intake_clock : ∀ (n : Nat) (s : State), ClockRuns s (intake n s)
  | 0, s => .refl s
  | n + 1, s => by
    unfold intake
    split
    · exact (takeHead_clock s).trans ((afterEvent_clock _).trans (intake_clock n _))
    · exact .refl s

theorem endRecord_clock (e : RecordEnd) (s : State) : ClockRuns s (endRecord e s) :=
  (updHlu_clock _ s).trans (intake_clock _ _)

theorem hostRecord_clock (e : RecordEnd) (s : State) : ClockRuns s (hostRecord e s) := by
  unfold hostRecord
  split
  · exact (updHlu_clock _ s).trans (endRecord_clock e _)
  · exact .refl s

theorem octetArrived_clock (o : Byte) (s : State) : ClockRuns s (octetArrived o s) := by
  unfold octetArrived
  split
  · simp only
    split
    · exact (updHlu_clock _ s).trans (afterEvent_clock _)
    · exact (updHlu_clock _ s).trans (endRecord_clock _ _)
  · exact .refl s

/-! ## Completions -/

/-- A restart starts every block, but station time runs on (R186). -/
theorem restartEffect_clock (k : RestartKind) (s : State) : ClockRuns s (restartEffect k s) := by
  cases k with
  | cold | warm => exact .of_time rfl rfl

theorem replyLeft_clock (r : Reply) (s : State) : ClockRuns s (replyLeft r s) := by
  have hout : ClockRuns s (endOut s) := updHlu_clock _ s
  unfold replyLeft
  split
  · exact hout
  split
  · exact hout.trans (restartEffect_clock _ _)
  · exact hout

theorem deliverLeft_clock (s : State) : ClockRuns s (deliverLeft s) := by
  unfold deliverLeft
  split
  · exact .of_outer ((requestAck_outer _ _ _ _).trans (updConv_outer _ _ _))
  · exact .of_time rfl rfl

theorem afterCompletion_clock (s : State) : ClockRuns s (afterCompletion s) :=
  (afterEvent_clock s).trans (intake_clock _ _)

theorem replyDone_clock (s : State) : ClockRuns s (replyDone s) := by
  unfold replyDone
  split
  · exact (replyLeft_clock _ s).trans (afterCompletion_clock _)
  · exact .refl s

theorem deliverDone_clock (s : State) : ClockRuns s (deliverDone s) := by
  unfold deliverDone
  split
  · exact (updHlu_clock _ s).trans ((deliverLeft_clock _).trans (afterCompletion_clock _))
  · exact .refl s

theorem noticeDone_clock (s : State) : ClockRuns s (noticeDone s) := by
  unfold noticeDone
  split
  · exact (updHlu_clock _ s).trans (afterCompletion_clock _)
  · exact .refl s

theorem frameLeft_clock (p : Path) (s : State) : ClockRuns s (frameLeft p s) := by
  unfold frameLeft
  simp only
  split
  · exact .refl s
  split
  · exact (ClockRuns.of_outer (updPath_outer p _ s)).trans (chooseOut_clock _)
  · exact (ClockRuns.of_outer (updPath_outer p _ s)).trans (afterEvent_clock _)

/-! ## Commands -/

theorem event_clock {f : State → State} {s : State} (hf : ClockRuns s (f s)) : ClockRuns s (event f s) := by
  unfold event
  split
  · exact .refl s
  · exact hf.trans (afterEvent_clock _)

/-- No arm of `exec` ends in a fault or a refusal. -/
theorem exec_answers (c : Instr) (s : State) : ∃ t, exec c s = .next t := by
  cases c <;> exact ⟨_, rfl⟩

/-- Frames leave station time alone, timers and samples take it to their instant, and what ends on the host link, a restart
among it, keeps it; only the two commands of RSTN set it to 0 (R180, R184). -/
theorem exec_clock {c : Instr} {s t : State} (hon : c ≠ .powerOn) (hreset : c ≠ .resetAssert) (h : exec c s = .next t) :
    ClockRuns s t := by
  cases c <;> cases h
  case powerOn => exact absurd rfl hon
  case resetAssert => exact absurd rfl hreset
  case replyCompletion => exact replyDone_clock s
  case deliverCompletion => exact deliverDone_clock s
  case noticeCompletion => exact noticeDone_clock s
  case frameCompletion p => exact frameLeft_clock p s
  case octetArrival o => exact octetArrived_clock o s
  case frameCheckFailure p l => exact event_clock (.of_outer (receiveOctets_outer p l s))
  case lineSample p b => exact event_clock (lineSampled_clock p b s)
  case alarmSample p b => exact event_clock (alarmSampled_clock p b s)
  case settleExpiry p => exact event_clock (settleEnds_clock p s)
  case probeRound p => exact event_clock (probeRoundEnds_clock p s)
  case ackTimerExpiry h => exact event_clock (ackTimerEnds_clock h s)
  case inquiryTimerExpiry h => exact event_clock (inquiryTimerEnds_clock h s)
  case waitPauseExpiry h => exact event_clock (waitPauseEnds_clock h s)
  case openTimerExpiry h => exact event_clock (openTimerEnds_clock h s)
  case closeTimerExpiry h => exact event_clock (closeTimerEnds_clock h s)
  case holdExpiry h => exact event_clock (holdEnds_clock h s)
  case parkExpiry h => exact event_clock (parkEnds_clock h s)
  case holdOffExpiry k => exact event_clock (holdOffEnds_clock k s)
  case slotInquiryExpiry k => exact event_clock (slotInquiryEnds_clock k s)
  case dataReceived | ackReceived | waitReceived | inquiryReceived | answerReceived | openReceived | openReplyReceived |
      closeReceived | closeReplyReceived | abandonReceived | probeReceived | echoReceived =>
    exact event_clock (.of_outer (receive_outer _ _ _ s))
  all_goals exact hostRecord_clock _ s

/-- The two commands of RSTN keep the queue too (R184). -/
theorem exec_pending {c : Instr} {s t : State} (h : exec c s = .next t) : t.pending = s.pending := by
  by_cases hon : c = .powerOn
  · subst hon
    cases h
    rfl
  by_cases hreset : c = .resetAssert
  · subst hreset
    cases h
    rfl
  exact (exec_clock hon hreset h).pending

/-- Settles O7: every arm answers a next state with the queue as it was, and all but those of RSTN let the clock run on. -/
theorem everyCommandAnswersANextState : Obligations.EveryCommandAnswersANextState := by
  refine ⟨fun c s => ?_, fun c s t hon hreset h => (exec_clock hon hreset h).time⟩
  obtain ⟨t, h⟩ := exec_answers c s
  exact ⟨t, h, exec_pending h⟩

end Sys2Proof.Machine
end
